-- ==== Sys2Proof/Word.lean ====
section
/-! DEFINITION. The two bit-vector types of the machine: a byte of memory or of an instruction, and a 64-bit word
(the widest register, address or operand; 10_state.md R20, R21). -/

namespace Sys2Proof

/-- Eight bits: one byte of memory (R60) or of an instruction (R100). -/
abbrev Byte := BitVec 8

/-- Sixty-four bits: the width of a general, control or debug register in LONG64 (R8). -/
abbrev Word := BitVec 64

end Sys2Proof
end

