-- ==== Sys2Proof/Config.lean ====
section
/-! DEFINITION. What is fixed for a run: the operating modes, the processor's parameters (00_scope.md R5 to R11), the
segment-descriptor record (10_state.md R33), the questions put to the three oracles of R12 and their answers, and the
free values (R19), which are constants without a body. -/

namespace Sys2Proof

/-- The five operating modes (R5, R52). -/
inductive Mode where
  | real
  | prot
  | v86
  | compat
  | long64
deriving DecidableEq, Repr

/-- CS_D, the default operand and address size of the code segment (R11, R36). -/
inductive CodeSize where
  | bits16
  | bits32
deriving DecidableEq, Repr

/-- PROC_FAMILY (R6). -/
inductive ProcFamily where
  | p4XeonP6
  | earlierIA32
  | other
deriving DecidableEq, Repr

/-- DATA_SEG_PRIV_CHECK (R10): the privilege test of a load of DS, ES, FS or GS. -/
inductive PrivCheck where
  | both
  | either
deriving DecidableEq, Repr

/-- The six segment registers (R32). -/
inductive Sreg where
  | es
  | cs
  | ss
  | ds
  | fs
  | gs
deriving DecidableEq, Repr

/-- What a descriptor describes (R33); `other` is anything that is neither data nor code. -/
inductive SegKind where
  | data
  | code
  | other
deriving DecidableEq, Repr, Inhabited

/-- A segment limit (R34): the byte-granular limit of a segment that is not expand-down, or that of an expand-down data
segment, whose top is FFFFFFFFH when `big` and FFFFH otherwise. -/
inductive Limit where
  | up (limit : BitVec 32)
  | down (limit : BitVec 32) (big : Bool)
deriving DecidableEq, Repr, Inhabited

/-- The segment-descriptor information (R33): the hidden part of a segment register and what DescFetch answers. -/
structure Desc where
  base : Word
  limit : Limit
  kind : SegKind
  writable : Bool
  readable : Bool
  conforming : Bool
  dpl : BitVec 2
  present : Bool
deriving DecidableEq, Repr, Inhabited

/-- What DescFetch answers (R12(a)). -/
inductive DescResult where
  | outsideLimit
  | nonCanonicalTable
  | desc (d : Desc)
deriving DecidableEq, Repr, Inhabited

/-- The kind of a data access (R12(b)). -/
inductive Access where
  | read
  | write
deriving DecidableEq, Repr

/-- One question to PageCheck (R12(b), R73): the linear address, the number of bytes, the access and the privilege level,
and the control registers that say which paging structures are current (R54, R245). -/
structure PageQuery where
  cr0 : Word
  cr3 : Word
  cr4 : Word
  lin : Word
  n : Nat
  access : Access
  cpl : BitVec 2
deriving DecidableEq, Repr

/-- What PageCheck answers (R12(b)): the physical address of the access, or the fault code, whose layout is not in the
spec (log 41). -/
inductive PageResult where
  | ok (phys : Word)
  | fault (code : BitVec 32)
deriving DecidableEq, Repr, Inhabited

/-- One question to PdptCheck (R12(c)): the control register written and the value written to it. -/
structure PdptQuery where
  cr : BitVec 4
  value : Word
deriving DecidableEq, Repr

/-- What PdptCheck answers (R12(c)). -/
inductive PdptResult where
  | ok
  | reservedBitsSet
deriving DecidableEq, Repr, Inhabited

/-- What the oracles answer to a question their tables do not list (log 5): the plain answer (DescFetch: outside the
table limits; PageCheck: the identity; PdptCheck: Ok), or an unconstrained one. -/
inductive Elsewhere where
  | plain
  | free
deriving DecidableEq, Repr

/-- The parameters a model takes as arguments (92_eei_decisions.md, the table at its end; log 4, log 5, log 7). No
instruction changes them. -/
structure Params where
  /-- PROC_FAMILY (R6). -/
  procFamily : ProcFamily
  /-- VA_BITS (R8): the number of implemented bits of a canonical address. -/
  vaBits : Nat
  /-- CR0_RSVD (R9): a 1 marks a reserved bit. -/
  cr0Rsvd : Word
  /-- CR3_RSVD (R9). -/
  cr3Rsvd : Word
  /-- CR4_RSVD (R9). -/
  cr4Rsvd : Word
  /-- Whether the processor has the debug extensions, CR4.DE (R9, R47). -/
  hasDe : Bool
  /-- Whether the processor has CR4.PSE (R9, R47). -/
  hasPse : Bool
  /-- Whether the processor has CR4.PAE (R9, R47). -/
  hasPae : Bool
  /-- Whether the processor has process-context identifiers, CR4.PCIDE (R9, R47). -/
  hasPcide : Bool
  /-- CR8_RSVD (R9). -/
  cr8Rsvd : Word
  /-- CR0_HI_FAULT (R9, R241). -/
  cr0HiFault : Bool
  /-- DATA_SEG_PRIV_CHECK (R10). -/
  dataSegPrivCheck : PrivCheck
  /-- Whether an EARLIER_IA32 processor has CR4 at all (R47, U9). -/
  hasCr4 : Bool
  /-- DescFetch, selector by selector (R12(a), D6). -/
  descTable : List (BitVec 16 × DescResult)
  /-- PageCheck, question by question (R12(b), D5). -/
  pageTable : List (PageQuery × PageResult)
  /-- PdptCheck, question by question (R12(c), D5). -/
  pdptTable : List (PdptQuery × PdptResult)
  /-- What the three answer to a question not listed. -/
  elsewhere : Elsewhere
  /-- Mapped (R83): the address ranges that exist, first and last address of each. -/
  mapped : List (Nat × Nat)
deriving DecidableEq, Repr

/-- SREG_HI16 (R7, D10): whether bits 31:16 of a 32-bit register written from a segment register are zeros. -/
def ProcFamily.zeroHi16 : ProcFamily → Bool
  | .p4XeonP6 => true
  | .earlierIA32 => false
  | .other => false

/-- `draw_1()` (R19): a free bit for each count. Log 12. -/
opaque Config.drawBit : Nat → Bool

/-- `draw_16()` (R19): sixteen free bits for each count. Log 12. -/
opaque Config.draw16 : Nat → BitVec 16

/-- An unspecified hidden part of a segment register (R211, R213): every field free for each count, its base among
them (`draw_64()`, U11). Log 13. -/
opaque Config.drawDesc : Nat → Desc

/-- DescFetch where nothing is assumed of it (R12(a), D6). Log 5. -/
opaque Config.descFetch : BitVec 16 → DescResult

/-- PageCheck where nothing is assumed of it (R12(b), D5). Log 5. -/
opaque Config.pageCheck : PageQuery → PageResult

/-- PdptCheck where nothing is assumed of it (R12(c), D5). Log 5. -/
opaque Config.pdptCheck : PdptQuery → PdptResult

end Sys2Proof
end

