-- ==== Sys2Proof/Syntax.lean ====
section
/-! DEFINITION. The instructions, as their bytes give them: prefixes (30_encoding.md R103 to R109), operand fields
(R110, R114 to R122) and one constructor for each of the 44 rows of R124, in the table's order. Nothing of the bytes is
lost: encode (Decode.lean) writes an instruction back. -/

namespace Sys2Proof

/-- The four bits of a REX prefix (R108). -/
structure Rex where
  w : Bool
  r : Bool
  x : Bool
  b : Bool
deriving DecidableEq, Repr

/-- One byte in front of the opcode, other than the REX prefix in force (R103): an operand-size, address-size,
segment-override or LOCK prefix, or a REX byte that another prefix byte follows and that is therefore no REX prefix (R109). -/
inductive Prefix where
  | opSize
  | addrSize
  | segOverride (seg : Sreg)
  | lock
  | deadRex (rex : Rex)
deriving DecidableEq, Repr

/-- The bytes in front of the opcode, in order, and the REX prefix in force (R100, R109). -/
structure Prefixes where
  pre : List Prefix
  rex : Option Rex
deriving DecidableEq, Repr

/-- The displacement of a 16-bit addressing form (R118): none (mod = 00), 8 bits (01) or 16 bits (10). -/
inductive Disp16 where
  | none
  | d8 (v : BitVec 8)
  | d16 (v : BitVec 16)
deriving DecidableEq, Repr

/-- The displacement of a 32- or 64-bit addressing form (R115, R116): none (mod = 00), 8 bits (01) or 32 bits (10). -/
inductive Disp32 where
  | none
  | d8 (v : BitVec 8)
  | d32 (v : BitVec 32)
deriving DecidableEq, Repr

/-- A memory operand of a ModR/M byte: the 16-bit forms of R118, the 32- and 64-bit forms of R115, and those with a SIB
byte (R116). -/
inductive MemForm where
  /-- 16-bit addressing: the registers that `rm` names (R118). -/
  | regs16 (rm : BitVec 3) (disp : Disp16)
  /-- 16-bit addressing, mod = 00, rm = 110: no register (R118). -/
  | abs16 (disp : BitVec 16)
  /-- 32- or 64-bit addressing: the base register `REX.B ++ rm` (R115). -/
  | based (rm : BitVec 3) (disp : Disp32)
  /-- mod = 00, rm = 101: RIP-relative in LONG64 (R117), an absolute offset otherwise (R115). -/
  | disp32 (disp : BitVec 32)
  /-- A SIB byte with a base register (R116). -/
  | sib (scale : BitVec 2) (index base : BitVec 3) (disp : Disp32)
  /-- A SIB byte with base = 101 under mod = 00: no base register (R116). -/
  | sibNoBase (scale : BitVec 2) (index : BitVec 3) (disp : BitVec 32)
deriving DecidableEq, Repr

/-- The r/m operand (R114, R115, R161): a general register (mod = 11) or memory. -/
inductive Rm where
  | reg (rm : BitVec 3)
  | mem (m : MemForm)
deriving DecidableEq, Repr

/-- A direct offset (R121): 2, 4 or 8 bytes by the address size. -/
inductive Moffs where
  | o16 (v : BitVec 16)
  | o32 (v : BitVec 32)
  | o64 (v : BitVec 64)
deriving DecidableEq, Repr

/-- An operand width (R80, R112): 8, 16, 32 or 64 bits. -/
inductive Width where
  | b8
  | b16
  | b32
  | b64
deriving DecidableEq, Repr

/-- An address size (R113): 16, 32 or 64 bits. -/
inductive AddrSize where
  | a16
  | a32
  | a64
deriving DecidableEq, Repr

/-- What the bytes of an instruction are read under: the mode and the default size of the code segment (R101). -/
structure Ctx where
  mode : Mode
  csD : CodeSize
deriving DecidableEq, Repr

/-- Why the decoder rejects a byte sequence. None of these is an exception: the model refuses (R130, D15, D20, D31). -/
inductive Reject where
  /-- The bytes end inside the instruction (R342: the text is a sequence of bytes). -/
  | truncated
  /-- The opcode byte is no row of R124 (R130). -/
  | notMov (opcode : Byte)
  /-- 0F is followed by a byte that is no row of R124 (R130). -/
  | notMovTwoByte (opcode : Byte)
  /-- C6 or C7 with ModRM.reg other than 000 (R123, R130). -/
  | notExtensionZero (reg : BitVec 3)
  /-- An F2 or F3 prefix (R107, D20). -/
  | repPrefix
  /-- Two 66 bytes (R107, D20). -/
  | repeatedOpSize
  /-- Two 67 bytes (R107, D20). -/
  | repeatedAddrSize
  /-- More than four legacy prefixes (R107, D20). -/
  | tooManyPrefixes
  /-- Longer than 15 bytes (R101, D31). -/
  | tooLong
deriving DecidableEq, Repr

/-- The 44 forms of R124, one constructor a row, in the order of spec/opcode_table.json. -/
inductive Instr where
  /-- Row 1, `88 /r`, MOV r/m8, r8 (R150). -/
  | movRm8R8 (p : Prefixes) (reg : BitVec 3) (rm : Rm)
  /-- Row 2, `REX + 88 /r`, MOV r/m8, r8 (R151). -/
  | movRm8R8Rex (p : Prefixes) (reg : BitVec 3) (rm : Rm)
  /-- Row 3, `89 /r`, MOV r/m16, r16 (R152). -/
  | movRm16R16 (p : Prefixes) (reg : BitVec 3) (rm : Rm)
  /-- Row 4, `89 /r`, MOV r/m32, r32 (R153). -/
  | movRm32R32 (p : Prefixes) (reg : BitVec 3) (rm : Rm)
  /-- Row 5, `REX.W + 89 /r`, MOV r/m64, r64 (R154). -/
  | movRm64R64 (p : Prefixes) (reg : BitVec 3) (rm : Rm)
  /-- Row 6, `8A /r`, MOV r8, r/m8 (R155). -/
  | movR8Rm8 (p : Prefixes) (reg : BitVec 3) (rm : Rm)
  /-- Row 7, `REX + 8A /r`, MOV r8, r/m8 (R156). -/
  | movR8Rm8Rex (p : Prefixes) (reg : BitVec 3) (rm : Rm)
  /-- Row 8, `8B /r`, MOV r16, r/m16 (R157). -/
  | movR16Rm16 (p : Prefixes) (reg : BitVec 3) (rm : Rm)
  /-- Row 9, `8B /r`, MOV r32, r/m32 (R158). -/
  | movR32Rm32 (p : Prefixes) (reg : BitVec 3) (rm : Rm)
  /-- Row 10, `REX.W + 8B /r`, MOV r64, r/m64 (R159). -/
  | movR64Rm64 (p : Prefixes) (reg : BitVec 3) (rm : Rm)
  /-- Row 11, `8C /r`, MOV r/m16, Sreg (R203). -/
  | movRm16Sreg (p : Prefixes) (sreg : BitVec 3) (rm : Rm)
  /-- Row 12, `REX.W + 8C /r`, MOV r/m64, Sreg (R205). -/
  | movRm64Sreg (p : Prefixes) (sreg : BitVec 3) (rm : Rm)
  /-- Row 13, `8E /r`, MOV Sreg, r/m16 (R206). -/
  | movSregRm16 (p : Prefixes) (sreg : BitVec 3) (rm : Rm)
  /-- Row 14, `REX.W + 8E /r`, MOV Sreg, r/m64 (R207). -/
  | movSregRm64 (p : Prefixes) (sreg : BitVec 3) (rm : Rm)
  /-- Row 15, `A0`, MOV AL, moffs8 (R166). -/
  | movAlMoffs8 (p : Prefixes) (off : Moffs)
  /-- Row 16, `REX.W + A0`, MOV AL, moffs8 (R167). -/
  | movAlMoffs8RexW (p : Prefixes) (off : Moffs)
  /-- Row 17, `A1`, MOV AX, moffs16 (R168). -/
  | movAxMoffs16 (p : Prefixes) (off : Moffs)
  /-- Row 18, `A1`, MOV EAX, moffs32 (R169). -/
  | movEaxMoffs32 (p : Prefixes) (off : Moffs)
  /-- Row 19, `REX.W + A1`, MOV RAX, moffs64 (R170). -/
  | movRaxMoffs64 (p : Prefixes) (off : Moffs)
  /-- Row 20, `A2`, MOV moffs8, AL (R171). -/
  | movMoffs8Al (p : Prefixes) (off : Moffs)
  /-- Row 21, `REX.W + A2`, MOV moffs8, AL (R172). -/
  | movMoffs8AlRexW (p : Prefixes) (off : Moffs)
  /-- Row 22, `A3`, MOV moffs16, AX (R173). -/
  | movMoffs16Ax (p : Prefixes) (off : Moffs)
  /-- Row 23, `A3`, MOV moffs32, EAX (R174). -/
  | movMoffs32Eax (p : Prefixes) (off : Moffs)
  /-- Row 24, `REX.W + A3`, MOV moffs64, RAX (R175). -/
  | movMoffs64Rax (p : Prefixes) (off : Moffs)
  /-- Row 25, `B0+rb ib`, MOV r8, imm8 (R176). -/
  | movR8Imm8 (p : Prefixes) (r : BitVec 3) (imm : BitVec 8)
  /-- Row 26, `REX + B0+rb ib`, MOV r8, imm8 (R177). -/
  | movR8Imm8Rex (p : Prefixes) (r : BitVec 3) (imm : BitVec 8)
  /-- Row 27, `B8+rw iw`, MOV r16, imm16 (R178). -/
  | movR16Imm16 (p : Prefixes) (r : BitVec 3) (imm : BitVec 16)
  /-- Row 28, `B8+rd id`, MOV r32, imm32 (R179). -/
  | movR32Imm32 (p : Prefixes) (r : BitVec 3) (imm : BitVec 32)
  /-- Row 29, `REX.W + B8+rd io`, MOV r64, imm64 (R180). -/
  | movR64Imm64 (p : Prefixes) (r : BitVec 3) (imm : BitVec 64)
  /-- Row 30, `C6 /0 ib`, MOV r/m8, imm8 (R181). -/
  | movRm8Imm8 (p : Prefixes) (rm : Rm) (imm : BitVec 8)
  /-- Row 31, `REX + C6 /0 ib`, MOV r/m8, imm8 (R182). -/
  | movRm8Imm8Rex (p : Prefixes) (rm : Rm) (imm : BitVec 8)
  /-- Row 32, `C7 /0 iw`, MOV r/m16, imm16 (R183). -/
  | movRm16Imm16 (p : Prefixes) (rm : Rm) (imm : BitVec 16)
  /-- Row 33, `C7 /0 id`, MOV r/m32, imm32 (R184). -/
  | movRm32Imm32 (p : Prefixes) (rm : Rm) (imm : BitVec 32)
  /-- Row 34, `REX.W + C7 /0 id`, MOV r/m64, imm32 (R185, C1). -/
  | movRm64Imm32 (p : Prefixes) (rm : Rm) (imm : BitVec 32)
  /-- Row 35, `0F 20 /r`, MOV r32, CR0-CR7 (R232). -/
  | movR32Cr (p : Prefixes) (mod : BitVec 2) (cr : BitVec 3) (rm : BitVec 3)
  /-- Row 36, `0F 20 /r`, MOV r64, CR0-CR7 (R233); with REX.R = 1 and reg not 000 it names CR9-CR15 (R126). -/
  | movR64Cr (p : Prefixes) (mod : BitVec 2) (cr : BitVec 3) (rm : BitVec 3)
  /-- Row 37, `REX.R + 0F 20 /0`, MOV r64, CR8 (R234). -/
  | movR64Cr8 (p : Prefixes) (mod : BitVec 2) (rm : BitVec 3)
  /-- Row 38, `0F 22 /r`, MOV CR0-CR7, r32 (R235). -/
  | movCrR32 (p : Prefixes) (mod : BitVec 2) (cr : BitVec 3) (rm : BitVec 3)
  /-- Row 39, `0F 22 /r`, MOV CR0-CR7, r64 (R236); with REX.R = 1 and reg not 000 it names CR9-CR15 (R126). -/
  | movCrR64 (p : Prefixes) (mod : BitVec 2) (cr : BitVec 3) (rm : BitVec 3)
  /-- Row 40, `REX.R + 0F 22 /0`, MOV CR8, r64 (R237). -/
  | movCr8R64 (p : Prefixes) (mod : BitVec 2) (rm : BitVec 3)
  /-- Row 41, `0F 21 /r`, MOV r32, DR0-DR7 (R272). -/
  | movR32Dr (p : Prefixes) (mod : BitVec 2) (dr : BitVec 3) (rm : BitVec 3)
  /-- Row 42, `0F 21 /r`, MOV r64, DR0-DR7 (R273). -/
  | movR64Dr (p : Prefixes) (mod : BitVec 2) (dr : BitVec 3) (rm : BitVec 3)
  /-- Row 43, `0F 23 /r`, MOV DR0-DR7, r32 (R274). -/
  | movDrR32 (p : Prefixes) (mod : BitVec 2) (dr : BitVec 3) (rm : BitVec 3)
  /-- Row 44, `0F 23 /r`, MOV DR0-DR7, r64 (R275). -/
  | movDrR64 (p : Prefixes) (mod : BitVec 2) (dr : BitVec 3) (rm : BitVec 3)
deriving DecidableEq, Repr

end Sys2Proof
end

