-- ==== Sys2Proof/Decode.lean ====
section
/-! DEFINITION. The decoder, total on any bytes and rejecting by name, and the encoder that writes an instruction back
(30_encoding.md). The machinery the opcode shorthand presupposes (prefix values, REX, ModR/M, SIB, register numbers) is
marked by the spec as general knowledge and adopted by its rules: PRESUMED, log 24. -/

namespace Sys2Proof

/-! ## What the prefixes say -/

/-- A `66H` prefix is present (R104). -/
def Prefixes.hasOpSize (p : Prefixes) : Bool := p.pre.contains .opSize

/-- A `67H` prefix is present (R103). -/
def Prefixes.hasAddrSize (p : Prefixes) : Bool := p.pre.contains .addrSize

/-- A LOCK prefix is present (R106). -/
def Prefixes.lock (p : Prefixes) : Bool := p.pre.contains .lock

/-- A REX prefix is in force (R108). -/
def Prefixes.hasRex (p : Prefixes) : Bool := p.rex.isSome

/-- REX.W (R108); 0 without a REX prefix. -/
def Prefixes.rexW (p : Prefixes) : Bool := (p.rex.map Rex.w).getD false

/-- REX.R (R108); 0 without a REX prefix. -/
def Prefixes.rexR (p : Prefixes) : Bool := (p.rex.map Rex.r).getD false

/-- REX.X (R108); 0 without a REX prefix. -/
def Prefixes.rexX (p : Prefixes) : Bool := (p.rex.map Rex.x).getD false

/-- REX.B (R108); 0 without a REX prefix. -/
def Prefixes.rexB (p : Prefixes) : Bool := (p.rex.map Rex.b).getD false

/-- A REX bit as bit 3 of a register number (R108). -/
def extend (bit : Bool) (low : BitVec 3) : BitVec 4 := BitVec.ofBool bit ++ low

/-- The register number in ModRM.reg: `REX.R ++ reg` (R110). -/
def Prefixes.regNum (p : Prefixes) (reg : BitVec 3) : BitVec 4 := extend p.rexR reg

/-- The register number in ModRM.r/m, SIB.base or the opcode byte: `REX.B ++ r` (R108, R114, R122). -/
def Prefixes.rmNum (p : Prefixes) (rm : BitVec 3) : BitVec 4 := extend p.rexB rm

/-- The register number in SIB.index: `REX.X ++ index` (R116). -/
def Prefixes.indexNum (p : Prefixes) (index : BitVec 3) : BitVec 4 := extend p.rexX index

/-- The segment named by a segment-override byte, last byte first (R105). -/
def Prefixes.overrides (p : Prefixes) : List Sreg :=
  p.pre.reverse.filterMap fun
    | .segOverride s => some s
    | _ => none

/-- OpSize, the operand-size attribute (R112). -/
def opSize (c : Ctx) (p : Prefixes) : Width :=
  match c.mode, c.csD with
  | .long64, _ => if p.rexW then .b64 else if p.hasOpSize then .b16 else .b32
  | .prot, .bits32 | .compat, .bits32 => if p.hasOpSize then .b16 else .b32
  | .prot, .bits16 | .compat, .bits16 => if p.hasOpSize then .b32 else .b16
  | .real, _ | .v86, _ => if p.hasOpSize then .b32 else .b16

/-- AddrSize, the address-size attribute (R113). -/
def addrSize (c : Ctx) (p : Prefixes) : AddrSize :=
  match c.mode, c.csD with
  | .long64, _ => if p.hasAddrSize then .a32 else .a64
  | .prot, .bits32 | .compat, .bits32 => if p.hasAddrSize then .a16 else .a32
  | .prot, .bits16 | .compat, .bits16 => if p.hasAddrSize then .a32 else .a16
  | .real, _ | .v86, _ => if p.hasAddrSize then .a32 else .a16

/-! ## Prefix bytes -/

/-- The legacy prefix a byte is, if it is one (R103); F2 and F3 are not among them (R107). -/
def legacyPrefix (b : Byte) : Option Prefix :=
  if b = 0x66 then some .opSize
  else if b = 0x67 then some .addrSize
  else if b = 0xF0 then some .lock
  else if b = 0x26 then some (.segOverride .es)
  else if b = 0x2E then some (.segOverride .cs)
  else if b = 0x36 then some (.segOverride .ss)
  else if b = 0x3E then some (.segOverride .ds)
  else if b = 0x64 then some (.segOverride .fs)
  else if b = 0x65 then some (.segOverride .gs)
  else none

/-- The REX prefix a byte of the form `0100 W R X B` is (R108). -/
def rexOf (b : Byte) : Option Rex :=
  if b.extractLsb' 4 4 = 4 then
    some { w := b.getLsbD 3, r := b.getLsbD 2, x := b.getLsbD 1, b := b.getLsbD 0 }
  else none

/-- A prefix byte put in front of prefixes already read. -/
def Prefixes.cons (b : Prefix) (p : Prefixes) : Prefixes := { p with pre := b :: p.pre }

/-- A REX byte put in front of prefixes already read: in force when the opcode follows it, ignored when another prefix
byte does (R109). -/
def Prefixes.consRex (r : Rex) (p : Prefixes) : Prefixes :=
  if p.pre = [] ∧ p.rex = none then { pre := [], rex := some r } else p.cons (.deadRex r)

/-- The prefixes at the head of the bytes and what follows them; `long` says whether REX prefixes exist (R100, R103,
R109). -/
def scanPrefixes (long : Bool) : List Byte → Except Reject (Prefixes × List Byte)
  | [] => .error .truncated
  | b :: bs =>
    if b = 0xF2 ∨ b = 0xF3 then .error .repPrefix
    else match legacyPrefix b with
    | some q => (scanPrefixes long bs).map fun (p, rest) => (p.cons q, rest)
    | none =>
      match (if long then rexOf b else none) with
      | some r => (scanPrefixes long bs).map fun (p, rest) => (p.consRex r, rest)
      | none => .ok ({ pre := [], rex := none }, b :: bs)

/-- Whether a prefix byte is a legacy prefix, not an ignored REX byte (R103). -/
def Prefix.isLegacy : Prefix → Bool
  | .deadRex _ => false
  | _ => true

/-- The prefix combinations the spec refuses (R107, D20). -/
def checkPrefixes (p : Prefixes) : Except Reject Unit :=
  if 1 < p.pre.count .opSize then .error .repeatedOpSize
  else if 1 < p.pre.count .addrSize then .error .repeatedAddrSize
  else if 4 < p.pre.countP Prefix.isLegacy then .error .tooManyPrefixes
  else .ok ()

/-! ## Opcodes -/

/-- The opcodes of R124 (rows that share one are told apart by the prefixes, the mode and the operand size). `wide` is
bit 0 of the byte: 0 for the byte form. -/
inductive Opcode where
  | mr (wide : Bool)
  | rm (wide : Bool)
  | fromSreg
  | toSreg
  | fd (wide : Bool)
  | td (wide : Bool)
  | oiByte (r : BitVec 3)
  | oi (r : BitVec 3)
  | mi (wide : Bool)
  | fromCr
  | toCr
  | fromDr
  | toDr
deriving DecidableEq, Repr

/-- The opcode of a one-byte opcode (R124). -/
def opcodeOf (b : Byte) : Option Opcode :=
  if b = 0x88 then some (.mr false)
  else if b = 0x89 then some (.mr true)
  else if b = 0x8A then some (.rm false)
  else if b = 0x8B then some (.rm true)
  else if b = 0x8C then some .fromSreg
  else if b = 0x8E then some .toSreg
  else if b = 0xA0 then some (.fd false)
  else if b = 0xA1 then some (.fd true)
  else if b = 0xA2 then some (.td false)
  else if b = 0xA3 then some (.td true)
  else if b = 0xC6 then some (.mi false)
  else if b = 0xC7 then some (.mi true)
  else if b.extractLsb' 3 5 = 0x16 then some (.oiByte (b.extractLsb' 0 3))
  else if b.extractLsb' 3 5 = 0x17 then some (.oi (b.extractLsb' 0 3))
  else none

/-- The opcode that 0F and one more byte make (R124 rows 35 to 44). -/
def opcodeOf0F (b : Byte) : Option Opcode :=
  if b = 0x20 then some .fromCr
  else if b = 0x22 then some .toCr
  else if b = 0x21 then some .fromDr
  else if b = 0x23 then some .toDr
  else none

/-- The opcode at the head of the bytes and what follows it (R101). -/
def readOpcode : List Byte → Except Reject (Opcode × List Byte)
  | [] => .error .truncated
  | b :: bs =>
    if b = 0x0F then
      match bs with
      | [] => .error .truncated
      | b2 :: bs =>
        match opcodeOf0F b2 with
        | some op => .ok (op, bs)
        | none => .error (.notMovTwoByte b2)
    else
      match opcodeOf b with
      | some op => .ok (op, bs)
      | none => .error (.notMov b)

/-! ## Immediates, displacements, direct offsets: least significant byte first (R119, R120, R121, D3) -/

/-- One byte. -/
def le8 : List Byte → Except Reject (BitVec 8 × List Byte)
  | b0 :: bs => .ok (b0, bs)
  | _ => .error .truncated

/-- Two bytes, the low one first. -/
def le16 : List Byte → Except Reject (BitVec 16 × List Byte)
  | b0 :: b1 :: bs => .ok (b1 ++ b0, bs)
  | _ => .error .truncated

/-- Four bytes, the low one first. -/
def le32 : List Byte → Except Reject (BitVec 32 × List Byte)
  | b0 :: b1 :: b2 :: b3 :: bs => .ok (b3 ++ b2 ++ b1 ++ b0, bs)
  | _ => .error .truncated

/-- Eight bytes, the low one first. -/
def le64 : List Byte → Except Reject (BitVec 64 × List Byte)
  | b0 :: b1 :: b2 :: b3 :: b4 :: b5 :: b6 :: b7 :: bs => .ok (b7 ++ b6 ++ b5 ++ b4 ++ b3 ++ b2 ++ b1 ++ b0, bs)
  | _ => .error .truncated

/-- A direct offset of the address size (R121). -/
def readMoffs (a : AddrSize) (bs : List Byte) : Except Reject (Moffs × List Byte) :=
  match a with
  | .a16 => (le16 bs).map fun (v, bs) => (.o16 v, bs)
  | .a32 => (le32 bs).map fun (v, bs) => (.o32 v, bs)
  | .a64 => (le64 bs).map fun (v, bs) => (.o64 v, bs)

/-! ## ModR/M and SIB -/

/-- The displacement that `mod` announces under 16-bit addressing (R118). -/
def readDisp16 (mod : BitVec 2) (bs : List Byte) : Except Reject (Disp16 × List Byte) :=
  if mod = 0 then .ok (.none, bs)
  else if mod = 1 then (le8 bs).map fun (v, bs) => (.d8 v, bs)
  else (le16 bs).map fun (v, bs) => (.d16 v, bs)

/-- The displacement that `mod` announces under 32- or 64-bit addressing (R115). -/
def readDisp32 (mod : BitVec 2) (bs : List Byte) : Except Reject (Disp32 × List Byte) :=
  if mod = 0 then .ok (.none, bs)
  else if mod = 1 then (le8 bs).map fun (v, bs) => (.d8 v, bs)
  else (le32 bs).map fun (v, bs) => (.d32 v, bs)

/-- A memory operand under 16-bit addressing (R118). -/
def readMem16 (mod : BitVec 2) (rm : BitVec 3) (bs : List Byte) : Except Reject (MemForm × List Byte) :=
  if mod = 0 ∧ rm = 6 then (le16 bs).map fun (v, bs) => (.abs16 v, bs)
  else (readDisp16 mod bs).map fun (d, bs) => (.regs16 rm d, bs)

/-- A SIB byte and its displacement (R116). -/
def readSib (mod : BitVec 2) : List Byte → Except Reject (MemForm × List Byte)
  | [] => .error .truncated
  | s :: bs =>
    if mod = 0 ∧ s.extractLsb' 0 3 = 5 then
      (le32 bs).map fun (v, bs) => (.sibNoBase (s.extractLsb' 6 2) (s.extractLsb' 3 3) v, bs)
    else
      (readDisp32 mod bs).map fun (d, bs) => (.sib (s.extractLsb' 6 2) (s.extractLsb' 3 3) (s.extractLsb' 0 3) d, bs)

/-- A memory operand under 32- or 64-bit addressing (R115): the tests look at the three ModR/M bits only. -/
def readMem32 (mod : BitVec 2) (rm : BitVec 3) (bs : List Byte) : Except Reject (MemForm × List Byte) :=
  if rm = 4 then readSib mod bs
  else if mod = 0 ∧ rm = 5 then (le32 bs).map fun (v, bs) => (.disp32 v, bs)
  else (readDisp32 mod bs).map fun (d, bs) => (.based rm d, bs)

/-- A memory operand of the address size (R115, R118). -/
def readMem (a : AddrSize) (mod : BitVec 2) (rm : BitVec 3) (bs : List Byte) : Except Reject (MemForm × List Byte) :=
  match a with
  | .a16 => readMem16 mod rm bs
  | .a32 | .a64 => readMem32 mod rm bs

/-- A ModR/M byte and what follows it: the `reg` field, the r/m operand and the rest (R110, R114, R115). -/
def readModRm (a : AddrSize) : List Byte → Except Reject (BitVec 3 × Rm × List Byte)
  | [] => .error .truncated
  | m :: bs =>
    if m.extractLsb' 6 2 = 3 then .ok (m.extractLsb' 3 3, .reg (m.extractLsb' 0 3), bs)
    else (readMem a (m.extractLsb' 6 2) (m.extractLsb' 0 3) bs).map fun (f, bs) => (m.extractLsb' 3 3, .mem f, bs)

/-- The ModR/M byte of a MOV to or from a control or debug register: mod, reg and r/m, and nothing after it whatever mod
is (R128). -/
def readModRmFields : List Byte → Except Reject ((BitVec 2 × BitVec 3 × BitVec 3) × List Byte)
  | [] => .error .truncated
  | m :: bs => .ok ((m.extractLsb' 6 2, m.extractLsb' 3 3, m.extractLsb' 0 3), bs)

/-! ## The decoder -/

/-- The operands after the opcode, and the row they make (R124). Rows with one opcode are told apart by the operand size
(R112), by whether a REX prefix is in force, and by the mode (R125). -/
def readOperands (c : Ctx) (p : Prefixes) (op : Opcode) (bs : List Byte) : Except Reject (Instr × List Byte) :=
  match op with
  | .mr false =>
    (readModRm (addrSize c p) bs).map fun (reg, rm, bs) =>
      (if p.hasRex then .movRm8R8Rex p reg rm else .movRm8R8 p reg rm, bs)
  | .mr true =>
    (readModRm (addrSize c p) bs).map fun (reg, rm, bs) =>
      (match opSize c p with
        | .b16 => .movRm16R16 p reg rm
        | .b64 => .movRm64R64 p reg rm
        | _ => .movRm32R32 p reg rm, bs)
  | .rm false =>
    (readModRm (addrSize c p) bs).map fun (reg, rm, bs) =>
      (if p.hasRex then .movR8Rm8Rex p reg rm else .movR8Rm8 p reg rm, bs)
  | .rm true =>
    (readModRm (addrSize c p) bs).map fun (reg, rm, bs) =>
      (match opSize c p with
        | .b16 => .movR16Rm16 p reg rm
        | .b64 => .movR64Rm64 p reg rm
        | _ => .movR32Rm32 p reg rm, bs)
  | .fromSreg =>
    (readModRm (addrSize c p) bs).map fun (reg, rm, bs) =>
      (if p.rexW then .movRm64Sreg p reg rm else .movRm16Sreg p reg rm, bs)
  | .toSreg =>
    (readModRm (addrSize c p) bs).map fun (reg, rm, bs) =>
      (if p.rexW then .movSregRm64 p reg rm else .movSregRm16 p reg rm, bs)
  | .fd false =>
    (readMoffs (addrSize c p) bs).map fun (o, bs) =>
      (if p.rexW then .movAlMoffs8RexW p o else .movAlMoffs8 p o, bs)
  | .fd true =>
    (readMoffs (addrSize c p) bs).map fun (o, bs) =>
      (match opSize c p with
        | .b16 => .movAxMoffs16 p o
        | .b64 => .movRaxMoffs64 p o
        | _ => .movEaxMoffs32 p o, bs)
  | .td false =>
    (readMoffs (addrSize c p) bs).map fun (o, bs) =>
      (if p.rexW then .movMoffs8AlRexW p o else .movMoffs8Al p o, bs)
  | .td true =>
    (readMoffs (addrSize c p) bs).map fun (o, bs) =>
      (match opSize c p with
        | .b16 => .movMoffs16Ax p o
        | .b64 => .movMoffs64Rax p o
        | _ => .movMoffs32Eax p o, bs)
  | .oiByte r =>
    (le8 bs).map fun (v, bs) => (if p.hasRex then .movR8Imm8Rex p r v else .movR8Imm8 p r v, bs)
  | .oi r =>
    match opSize c p with
    | .b16 => (le16 bs).map fun (v, bs) => (.movR16Imm16 p r v, bs)
    | .b64 => (le64 bs).map fun (v, bs) => (.movR64Imm64 p r v, bs)
    | _ => (le32 bs).map fun (v, bs) => (.movR32Imm32 p r v, bs)
  | .mi wide =>
    match readModRm (addrSize c p) bs with
    | .error e => .error e
    | .ok (reg, rm, bs) =>
      if reg ≠ 0 then .error (.notExtensionZero reg)
      else if wide then
        match opSize c p with
        | .b16 => (le16 bs).map fun (v, bs) => (.movRm16Imm16 p rm v, bs)
        | .b64 => (le32 bs).map fun (v, bs) => (.movRm64Imm32 p rm v, bs)
        | _ => (le32 bs).map fun (v, bs) => (.movRm32Imm32 p rm v, bs)
      else
        (le8 bs).map fun (v, bs) => (if p.hasRex then .movRm8Imm8Rex p rm v else .movRm8Imm8 p rm v, bs)
  | .fromCr =>
    (readModRmFields bs).map fun ((mod, reg, rm), bs) =>
      (if c.mode = .long64 then (if p.rexR ∧ reg = 0 then .movR64Cr8 p mod rm else .movR64Cr p mod reg rm)
        else .movR32Cr p mod reg rm, bs)
  | .toCr =>
    (readModRmFields bs).map fun ((mod, reg, rm), bs) =>
      (if c.mode = .long64 then (if p.rexR ∧ reg = 0 then .movCr8R64 p mod rm else .movCrR64 p mod reg rm)
        else .movCrR32 p mod reg rm, bs)
  | .fromDr =>
    (readModRmFields bs).map fun ((mod, reg, rm), bs) =>
      (if c.mode = .long64 then .movR64Dr p mod reg rm else .movR32Dr p mod reg rm, bs)
  | .toDr =>
    (readModRmFields bs).map fun ((mod, reg, rm), bs) =>
      (if c.mode = .long64 then .movDrR64 p mod reg rm else .movDrR32 p mod reg rm, bs)

/-- The instruction at the head of the bytes, read under a mode and code size, and the bytes after it (R101). -/
def decode (c : Ctx) (bs : List Byte) : Except Reject (Instr × List Byte) :=
  match scanPrefixes (c.mode = .long64) bs with
  | .error e => .error e
  | .ok (p, bs1) =>
    match checkPrefixes p with
    | .error e => .error e
    | .ok _ =>
      match readOpcode bs1 with
      | .error e => .error e
      | .ok (op, bs2) =>
        match readOperands c p op bs2 with
        | .error e => .error e
        | .ok (i, rest) => if 15 < bs.length - rest.length then .error .tooLong else .ok (i, rest)

/-! ## The encoder -/

/-- The REX byte (R108). -/
def Rex.byte (r : Rex) : Byte :=
  (4 : BitVec 4) ++ (BitVec.ofBool r.w ++ BitVec.ofBool r.r ++ BitVec.ofBool r.x ++ BitVec.ofBool r.b)

/-- The segment-override byte of a segment (R103). -/
def Sreg.overrideByte : Sreg → Byte
  | .es => 0x26
  | .cs => 0x2E
  | .ss => 0x36
  | .ds => 0x3E
  | .fs => 0x64
  | .gs => 0x65

/-- The byte of a prefix (R103). -/
def Prefix.byte : Prefix → Byte
  | .opSize => 0x66
  | .addrSize => 0x67
  | .segOverride s => s.overrideByte
  | .lock => 0xF0
  | .deadRex r => r.byte

/-- The bytes in front of the opcode (R100). -/
def Prefixes.bytes (p : Prefixes) : List Byte := p.pre.map Prefix.byte ++ (p.rex.map Rex.byte).toList

/-- Two bytes, the low one first (R120). -/
def bytes16 (v : BitVec 16) : List Byte := [v.extractLsb' 0 8, v.extractLsb' 8 8]

/-- Four bytes, the low one first (R120). -/
def bytes32 (v : BitVec 32) : List Byte :=
  [v.extractLsb' 0 8, v.extractLsb' 8 8, v.extractLsb' 16 8, v.extractLsb' 24 8]

/-- Eight bytes, the low one first (R120). -/
def bytes64 (v : BitVec 64) : List Byte :=
  [v.extractLsb' 0 8, v.extractLsb' 8 8, v.extractLsb' 16 8, v.extractLsb' 24 8,
   v.extractLsb' 32 8, v.extractLsb' 40 8, v.extractLsb' 48 8, v.extractLsb' 56 8]

/-- The bytes of a direct offset (R121). -/
def Moffs.bytes : Moffs → List Byte
  | .o16 v => bytes16 v
  | .o32 v => bytes32 v
  | .o64 v => bytes64 v

/-- A ModR/M or SIB byte: two bits and two fields of three (R110, R116). -/
def fieldsByte (hi : BitVec 2) (mid lo : BitVec 3) : Byte := hi ++ mid ++ lo

/-- The `mod` field a displacement needs (R118). -/
def Disp16.mod : Disp16 → BitVec 2
  | .none => 0
  | .d8 _ => 1
  | .d16 _ => 2

/-- The bytes of a displacement (R119). -/
def Disp16.bytes : Disp16 → List Byte
  | .none => []
  | .d8 v => [v]
  | .d16 v => bytes16 v

/-- The `mod` field a displacement needs (R115). -/
def Disp32.mod : Disp32 → BitVec 2
  | .none => 0
  | .d8 _ => 1
  | .d32 _ => 2

/-- The bytes of a displacement (R119). -/
def Disp32.bytes : Disp32 → List Byte
  | .none => []
  | .d8 v => [v]
  | .d32 v => bytes32 v

/-- The ModR/M byte with its `reg` field, and the SIB byte and displacement of a memory operand (R115 to R119). -/
def MemForm.bytes (reg : BitVec 3) : MemForm → List Byte
  | .regs16 rm d => fieldsByte d.mod reg rm :: d.bytes
  | .abs16 v => fieldsByte 0 reg 6 :: bytes16 v
  | .based rm d => fieldsByte d.mod reg rm :: d.bytes
  | .disp32 v => fieldsByte 0 reg 5 :: bytes32 v
  | .sib scale index base d => fieldsByte d.mod reg 4 :: fieldsByte scale index base :: d.bytes
  | .sibNoBase scale index v => fieldsByte 0 reg 4 :: fieldsByte scale index 5 :: bytes32 v

/-- The ModR/M byte with its `reg` field, and what follows it (R110, R114). -/
def Rm.bytes (reg : BitVec 3) : Rm → List Byte
  | .reg rm => [fieldsByte 3 reg rm]
  | .mem m => m.bytes reg

/-- The bytes of an instruction (R100, R124, R133). -/
def encode : Instr → List Byte
  | .movRm8R8 p reg rm => p.bytes ++ 0x88 :: rm.bytes reg
  | .movRm8R8Rex p reg rm => p.bytes ++ 0x88 :: rm.bytes reg
  | .movRm16R16 p reg rm => p.bytes ++ 0x89 :: rm.bytes reg
  | .movRm32R32 p reg rm => p.bytes ++ 0x89 :: rm.bytes reg
  | .movRm64R64 p reg rm => p.bytes ++ 0x89 :: rm.bytes reg
  | .movR8Rm8 p reg rm => p.bytes ++ 0x8A :: rm.bytes reg
  | .movR8Rm8Rex p reg rm => p.bytes ++ 0x8A :: rm.bytes reg
  | .movR16Rm16 p reg rm => p.bytes ++ 0x8B :: rm.bytes reg
  | .movR32Rm32 p reg rm => p.bytes ++ 0x8B :: rm.bytes reg
  | .movR64Rm64 p reg rm => p.bytes ++ 0x8B :: rm.bytes reg
  | .movRm16Sreg p sreg rm => p.bytes ++ 0x8C :: rm.bytes sreg
  | .movRm64Sreg p sreg rm => p.bytes ++ 0x8C :: rm.bytes sreg
  | .movSregRm16 p sreg rm => p.bytes ++ 0x8E :: rm.bytes sreg
  | .movSregRm64 p sreg rm => p.bytes ++ 0x8E :: rm.bytes sreg
  | .movAlMoffs8 p off => p.bytes ++ 0xA0 :: off.bytes
  | .movAlMoffs8RexW p off => p.bytes ++ 0xA0 :: off.bytes
  | .movAxMoffs16 p off => p.bytes ++ 0xA1 :: off.bytes
  | .movEaxMoffs32 p off => p.bytes ++ 0xA1 :: off.bytes
  | .movRaxMoffs64 p off => p.bytes ++ 0xA1 :: off.bytes
  | .movMoffs8Al p off => p.bytes ++ 0xA2 :: off.bytes
  | .movMoffs8AlRexW p off => p.bytes ++ 0xA2 :: off.bytes
  | .movMoffs16Ax p off => p.bytes ++ 0xA3 :: off.bytes
  | .movMoffs32Eax p off => p.bytes ++ 0xA3 :: off.bytes
  | .movMoffs64Rax p off => p.bytes ++ 0xA3 :: off.bytes
  | .movR8Imm8 p r imm => p.bytes ++ ((0x16 : BitVec 5) ++ r) :: [imm]
  | .movR8Imm8Rex p r imm => p.bytes ++ ((0x16 : BitVec 5) ++ r) :: [imm]
  | .movR16Imm16 p r imm => p.bytes ++ ((0x17 : BitVec 5) ++ r) :: bytes16 imm
  | .movR32Imm32 p r imm => p.bytes ++ ((0x17 : BitVec 5) ++ r) :: bytes32 imm
  | .movR64Imm64 p r imm => p.bytes ++ ((0x17 : BitVec 5) ++ r) :: bytes64 imm
  | .movRm8Imm8 p rm imm => p.bytes ++ 0xC6 :: (rm.bytes 0 ++ [imm])
  | .movRm8Imm8Rex p rm imm => p.bytes ++ 0xC6 :: (rm.bytes 0 ++ [imm])
  | .movRm16Imm16 p rm imm => p.bytes ++ 0xC7 :: (rm.bytes 0 ++ bytes16 imm)
  | .movRm32Imm32 p rm imm => p.bytes ++ 0xC7 :: (rm.bytes 0 ++ bytes32 imm)
  | .movRm64Imm32 p rm imm => p.bytes ++ 0xC7 :: (rm.bytes 0 ++ bytes32 imm)
  | .movR32Cr p mod cr rm => p.bytes ++ [0x0F, 0x20, fieldsByte mod cr rm]
  | .movR64Cr p mod cr rm => p.bytes ++ [0x0F, 0x20, fieldsByte mod cr rm]
  | .movR64Cr8 p mod rm => p.bytes ++ [0x0F, 0x20, fieldsByte mod 0 rm]
  | .movCrR32 p mod cr rm => p.bytes ++ [0x0F, 0x22, fieldsByte mod cr rm]
  | .movCrR64 p mod cr rm => p.bytes ++ [0x0F, 0x22, fieldsByte mod cr rm]
  | .movCr8R64 p mod rm => p.bytes ++ [0x0F, 0x22, fieldsByte mod 0 rm]
  | .movR32Dr p mod dr rm => p.bytes ++ [0x0F, 0x21, fieldsByte mod dr rm]
  | .movR64Dr p mod dr rm => p.bytes ++ [0x0F, 0x21, fieldsByte mod dr rm]
  | .movDrR32 p mod dr rm => p.bytes ++ [0x0F, 0x23, fieldsByte mod dr rm]
  | .movDrR64 p mod dr rm => p.bytes ++ [0x0F, 0x23, fieldsByte mod dr rm]

/-- `len`, the length of an instruction in bytes (R101). -/
def Instr.size (i : Instr) : Nat := (encode i).length

/-! ## What every instruction has -/

/-- The prefixes of an instruction (R100). -/
def Instr.prefixes : Instr → Prefixes
  | .movRm8R8 p _ _ => p
  | .movRm8R8Rex p _ _ => p
  | .movRm16R16 p _ _ => p
  | .movRm32R32 p _ _ => p
  | .movRm64R64 p _ _ => p
  | .movR8Rm8 p _ _ => p
  | .movR8Rm8Rex p _ _ => p
  | .movR16Rm16 p _ _ => p
  | .movR32Rm32 p _ _ => p
  | .movR64Rm64 p _ _ => p
  | .movRm16Sreg p _ _ => p
  | .movRm64Sreg p _ _ => p
  | .movSregRm16 p _ _ => p
  | .movSregRm64 p _ _ => p
  | .movAlMoffs8 p _ => p
  | .movAlMoffs8RexW p _ => p
  | .movAxMoffs16 p _ => p
  | .movEaxMoffs32 p _ => p
  | .movRaxMoffs64 p _ => p
  | .movMoffs8Al p _ => p
  | .movMoffs8AlRexW p _ => p
  | .movMoffs16Ax p _ => p
  | .movMoffs32Eax p _ => p
  | .movMoffs64Rax p _ => p
  | .movR8Imm8 p _ _ => p
  | .movR8Imm8Rex p _ _ => p
  | .movR16Imm16 p _ _ => p
  | .movR32Imm32 p _ _ => p
  | .movR64Imm64 p _ _ => p
  | .movRm8Imm8 p _ _ => p
  | .movRm8Imm8Rex p _ _ => p
  | .movRm16Imm16 p _ _ => p
  | .movRm32Imm32 p _ _ => p
  | .movRm64Imm32 p _ _ => p
  | .movR32Cr p _ _ _ => p
  | .movR64Cr p _ _ _ => p
  | .movR64Cr8 p _ _ => p
  | .movCrR32 p _ _ _ => p
  | .movCrR64 p _ _ _ => p
  | .movCr8R64 p _ _ => p
  | .movR32Dr p _ _ _ => p
  | .movR64Dr p _ _ _ => p
  | .movDrR32 p _ _ _ => p
  | .movDrR64 p _ _ _ => p

/-- Whether an instruction is one of the 34 rows of MOV-Move (R2, R124), not one of the ten of MOV-CR and MOV-DR. -/
def Instr.isMove : Instr → Bool
  | .movRm8R8 _ _ _ => true
  | .movRm8R8Rex _ _ _ => true
  | .movRm16R16 _ _ _ => true
  | .movRm32R32 _ _ _ => true
  | .movRm64R64 _ _ _ => true
  | .movR8Rm8 _ _ _ => true
  | .movR8Rm8Rex _ _ _ => true
  | .movR16Rm16 _ _ _ => true
  | .movR32Rm32 _ _ _ => true
  | .movR64Rm64 _ _ _ => true
  | .movRm16Sreg _ _ _ => true
  | .movRm64Sreg _ _ _ => true
  | .movSregRm16 _ _ _ => true
  | .movSregRm64 _ _ _ => true
  | .movAlMoffs8 _ _ => true
  | .movAlMoffs8RexW _ _ => true
  | .movAxMoffs16 _ _ => true
  | .movEaxMoffs32 _ _ => true
  | .movRaxMoffs64 _ _ => true
  | .movMoffs8Al _ _ => true
  | .movMoffs8AlRexW _ _ => true
  | .movMoffs16Ax _ _ => true
  | .movMoffs32Eax _ _ => true
  | .movMoffs64Rax _ _ => true
  | .movR8Imm8 _ _ _ => true
  | .movR8Imm8Rex _ _ _ => true
  | .movR16Imm16 _ _ _ => true
  | .movR32Imm32 _ _ _ => true
  | .movR64Imm64 _ _ _ => true
  | .movRm8Imm8 _ _ _ => true
  | .movRm8Imm8Rex _ _ _ => true
  | .movRm16Imm16 _ _ _ => true
  | .movRm32Imm32 _ _ _ => true
  | .movRm64Imm32 _ _ _ => true
  | .movR32Cr _ _ _ _ => false
  | .movR64Cr _ _ _ _ => false
  | .movR64Cr8 _ _ _ => false
  | .movCrR32 _ _ _ _ => false
  | .movCrR64 _ _ _ _ => false
  | .movCr8R64 _ _ _ => false
  | .movR32Dr _ _ _ _ => false
  | .movR64Dr _ _ _ _ => false
  | .movDrR32 _ _ _ _ => false
  | .movDrR64 _ _ _ _ => false

/-! ## The host's table words -/

/-- The longest instruction (R100). -/
def maxLength : Nat := 15

/-- The bytes of a table word whose first byte is its lowest: byte k is bits 8k+7..8k of `w`, and every bit above `nbits`
is 0, up to the longest instruction. -/
def bytesFromLow (nbits w : Nat) : List Byte :=
  (List.range maxLength).map fun k => BitVec.ofNat 8 ((w % 2 ^ nbits) / 2 ^ (8 * k))

/-- The bytes of a table word whose first byte is its highest, as the table's two- and three-byte entries are written
(INDEX.md: the opcode bytes in order, then ModR/M), and zeros after them. -/
def bytesFromHigh (nbits w : Nat) : List Byte :=
  (List.range maxLength).map fun k =>
    if 8 * (k + 1) ≤ nbits then BitVec.ofNat 8 (w / 2 ^ (nbits - 8 * (k + 1))) else 0

/-- The bytes of a table word: its first byte lowest, or highest where that is no instruction. No word of the table is an
instruction both ways (log 8). -/
def tableBytes (c : Ctx) (nbits w : Nat) : List Byte :=
  match decode c (bytesFromLow nbits w) with
  | .ok _ => bytesFromLow nbits w
  | .error _ => bytesFromHigh nbits w

/-- The mode and code size of the state after reset (R56): what a table word is read under. -/
def Ctx.atReset : Ctx := { mode := .real, csD := .bits16 }

/-- The instruction the decoder reads from a table word, under the mode and code size of the state after reset (log 8). -/
def decodeTableWord (nbits w : Nat) : Option Instr :=
  match decode Ctx.atReset (tableBytes Ctx.atReset nbits w) with
  | .ok (i, _) => some i
  | .error _ => none

end Sys2Proof
end

