-- ==== Sys2Proof/WellFormed.lean ====
section
/-! DEFINITION. When an instruction is one that bytes can hold under a mode and code size: the conditions that
30_encoding.md puts on each row, as a check that evaluates. The decoder answers only instructions that pass it. -/

namespace Sys2Proof

/-- Whether every ignored REX byte is followed by another prefix byte or by the REX prefix in force (R109). -/
def deadRexFollowed : List Prefix → Option Rex → Bool
  | [], _ => true
  | [q], rex => q.isLegacy || rex.isSome
  | _ :: q :: rest, rex => deadRexFollowed (q :: rest) rex

/-- The prefixes of an instruction (R103, R107, R109, D20): no `66H` or `67H` repeated, at most four legacy prefixes, and
REX bytes in LONG64 only. -/
def Prefixes.wf (c : Ctx) (p : Prefixes) : Bool :=
  decide (p.pre.count .opSize ≤ 1) && decide (p.pre.count .addrSize ≤ 1) && decide (p.pre.countP Prefix.isLegacy ≤ 4)
    && deadRexFollowed p.pre p.rex
    && (decide (c.mode = .long64) || (p.rex.isNone && p.pre.all Prefix.isLegacy))

/-- A memory operand of the address size (R115, R116, R118), of a form that shares its bytes with no other form. -/
def MemForm.wf (a : AddrSize) : MemForm → Bool
  | .regs16 rm d => decide (a = .a16) && !(decide (rm = 6) && decide (d = .none))
  | .abs16 _ => decide (a = .a16)
  | .based rm d => decide (a ≠ .a16) && decide (rm ≠ 4) && !(decide (rm = 5) && decide (d = .none))
  | .disp32 _ => decide (a ≠ .a16)
  | .sib _ _ base d => decide (a ≠ .a16) && !(decide (base = 5) && decide (d = .none))
  | .sibNoBase _ _ _ => decide (a ≠ .a16)

/-- An r/m operand of the address size (R114, R115). -/
def Rm.wf (a : AddrSize) : Rm → Bool
  | .reg _ => true
  | .mem m => m.wf a

/-- A direct offset of the address size (R121). -/
def Moffs.wf (a : AddrSize) : Moffs → Bool
  | .o16 _ => decide (a = .a16)
  | .o32 _ => decide (a = .a32)
  | .o64 _ => decide (a = .a64)

/-- A row with a ModR/M operand: its prefixes and its operand. -/
def rmRow (c : Ctx) (p : Prefixes) (rm : Rm) : Bool := p.wf c && rm.wf (addrSize c p)

/-- A row with a direct offset: its prefixes and its operand. -/
def moffsRow (c : Ctx) (p : Prefixes) (off : Moffs) : Bool := p.wf c && off.wf (addrSize c p)

/-- A row selected by an operand size (R112). -/
def sized (c : Ctx) (p : Prefixes) (w : Width) : Bool := decide (opSize c p = w)

/-- What R124 asks of each row: prefixes, operand, and the condition that tells it from the rows with the same opcode. -/
def Instr.rowOk (c : Ctx) : Instr → Bool
  | .movRm8R8 p _ rm => rmRow c p rm && !p.hasRex
  | .movRm8R8Rex p _ rm => rmRow c p rm && p.hasRex
  | .movRm16R16 p _ rm => rmRow c p rm && sized c p .b16
  | .movRm32R32 p _ rm => rmRow c p rm && sized c p .b32
  | .movRm64R64 p _ rm => rmRow c p rm && sized c p .b64
  | .movR8Rm8 p _ rm => rmRow c p rm && !p.hasRex
  | .movR8Rm8Rex p _ rm => rmRow c p rm && p.hasRex
  | .movR16Rm16 p _ rm => rmRow c p rm && sized c p .b16
  | .movR32Rm32 p _ rm => rmRow c p rm && sized c p .b32
  | .movR64Rm64 p _ rm => rmRow c p rm && sized c p .b64
  | .movRm16Sreg p _ rm => rmRow c p rm && !p.rexW
  | .movRm64Sreg p _ rm => rmRow c p rm && p.rexW
  | .movSregRm16 p _ rm => rmRow c p rm && !p.rexW
  | .movSregRm64 p _ rm => rmRow c p rm && p.rexW
  | .movAlMoffs8 p off => moffsRow c p off && !p.rexW
  | .movAlMoffs8RexW p off => moffsRow c p off && p.rexW
  | .movAxMoffs16 p off => moffsRow c p off && sized c p .b16
  | .movEaxMoffs32 p off => moffsRow c p off && sized c p .b32
  | .movRaxMoffs64 p off => moffsRow c p off && sized c p .b64
  | .movMoffs8Al p off => moffsRow c p off && !p.rexW
  | .movMoffs8AlRexW p off => moffsRow c p off && p.rexW
  | .movMoffs16Ax p off => moffsRow c p off && sized c p .b16
  | .movMoffs32Eax p off => moffsRow c p off && sized c p .b32
  | .movMoffs64Rax p off => moffsRow c p off && sized c p .b64
  | .movR8Imm8 p _ _ => p.wf c && !p.hasRex
  | .movR8Imm8Rex p _ _ => p.wf c && p.hasRex
  | .movR16Imm16 p _ _ => p.wf c && sized c p .b16
  | .movR32Imm32 p _ _ => p.wf c && sized c p .b32
  | .movR64Imm64 p _ _ => p.wf c && sized c p .b64
  | .movRm8Imm8 p rm _ => rmRow c p rm && !p.hasRex
  | .movRm8Imm8Rex p rm _ => rmRow c p rm && p.hasRex
  | .movRm16Imm16 p rm _ => rmRow c p rm && sized c p .b16
  | .movRm32Imm32 p rm _ => rmRow c p rm && sized c p .b32
  | .movRm64Imm32 p rm _ => rmRow c p rm && sized c p .b64
  | .movR32Cr p _ _ _ => p.wf c && decide (c.mode ≠ .long64)
  | .movR64Cr p _ cr _ => p.wf c && decide (c.mode = .long64) && !(p.rexR && decide (cr = 0))
  | .movR64Cr8 p _ _ => p.wf c && decide (c.mode = .long64) && p.rexR
  | .movCrR32 p _ _ _ => p.wf c && decide (c.mode ≠ .long64)
  | .movCrR64 p _ cr _ => p.wf c && decide (c.mode = .long64) && !(p.rexR && decide (cr = 0))
  | .movCr8R64 p _ _ => p.wf c && decide (c.mode = .long64) && p.rexR
  | .movR32Dr p _ _ _ => p.wf c && decide (c.mode ≠ .long64)
  | .movR64Dr p _ _ _ => p.wf c && decide (c.mode = .long64)
  | .movDrR32 p _ _ _ => p.wf c && decide (c.mode ≠ .long64)
  | .movDrR64 p _ _ _ => p.wf c && decide (c.mode = .long64)

/-- An instruction that 1 to 15 bytes can hold under the mode and code size (R100, R101, R124, R125, D31). -/
def Instr.wf (c : Ctx) (i : Instr) : Bool := i.rowOk c && decide (i.size ≤ maxLength)

end Sys2Proof
end

