-- ==== Sys2Proof/Machine/State.lean ====
section
/-! DEFINITION. The machine's state: every component of 10_state.md R20, and the model's own fields (the program text, the
parameters and oracles, the environment's offers, the count of free values). Plain data. Also the reasons a step can stop
and the state right after reset (R56, PRESUMED; log 1). -/

namespace Sys2Proof.Machine

/-- The six status flags and AC (R30, R31). -/
structure Flags where
  cf : Bool
  pf : Bool
  af : Bool
  zf : Bool
  sf : Bool
  of : Bool
  ac : Bool
deriving DecidableEq, Repr

/-- A segment register (R32): its selector and its hidden part. -/
structure SegReg where
  sel : BitVec 16
  hidden : Desc
deriving DecidableEq, Repr

/-- The six segment registers (R32). -/
structure SegFile where
  es : SegReg
  cs : SegReg
  ss : SegReg
  ds : SegReg
  fs : SegReg
  gs : SegReg
deriving DecidableEq, Repr

/-- What a MOV to a control register records of its TLB side effect (R54, R251, R252). -/
inductive TlbEvent where
  /-- A write of CR0: the old and the new value. -/
  | cr0Write (old new : Word)
  /-- A write of CR3: whether bit 63 of the source asked for no invalidation. -/
  | cr3Write (noflush : Bool)
  /-- A write of CR4: the old and the new value. -/
  | cr4Write (old new : Word)
  /-- Every entry flushed, global ones included: the P4_XEON_P6 side effect of R252. -/
  | flushAll
deriving DecidableEq, Repr

/-- Memory: (address, byte) pairs, addresses rising, none equal to what an unlisted address reads as (R60). -/
abbrev Memory := List Host.Cell

/-- What a byte of memory that nothing has written reads as (R56: unspecified). DESIGN CHOICE, log 3. -/
def unlistedByte : Byte := 0

/-- The canonical form of memory. -/
abbrev Memory.wf (m : Memory) : Prop :=
  m.Pairwise (fun a b => a.1 < b.1) ∧ ∀ c ∈ m, c.2 ≠ unlistedByte

/-- The program text (R342): the offset of its first byte in the code segment, and its bytes. -/
structure Text where
  start : Word
  bytes : List Byte
deriving DecidableEq, Repr

/-- The state of the machine (R20), and the model's own fields after `mem`. -/
structure State where
  /-- The sixteen general registers (R21). -/
  x : Vector Word 16
  /-- The instruction pointer (R28). -/
  pc : Word
  /-- The flags (R30, R31). -/
  flags : Flags
  /-- The segment registers (R32). -/
  seg : SegFile
  /-- CS_D (R36). -/
  csD : CodeSize
  /-- The current privilege level (R37). -/
  cpl : BitVec 2
  /-- CR0 (R42). -/
  cr0 : Word
  /-- CR2 (R44). -/
  cr2 : Word
  /-- CR3 (R45). -/
  cr3 : Word
  /-- CR4 (R47). -/
  cr4 : Word
  /-- CR8 (R48). -/
  cr8 : Word
  /-- DR0 (R49). -/
  dr0 : Word
  /-- DR1 (R49). -/
  dr1 : Word
  /-- DR2 (R49). -/
  dr2 : Word
  /-- DR3 (R49). -/
  dr3 : Word
  /-- DR6 (R49, R50). -/
  dr6 : Word
  /-- DR7 (R49, R50). -/
  dr7 : Word
  /-- The operating mode (R52). -/
  mode : Mode
  /-- int_shadow (R53). -/
  intShadow : Bool
  /-- tlb: the invalidation events so far, oldest first (R54, R251). -/
  tlb : List TlbEvent
  /-- Memory (R60). -/
  mem : Memory
  /-- The model's own: the program text (R342). -/
  text : Text
  /-- The model's own: parameters and oracles (R6 to R12). -/
  par : Params
  /-- The model's own: whether the environment offers an interrupt at each coming boundary (R315, R318). -/
  offers : List Bool
  /-- The model's own: how many free values have been drawn (R19). -/
  draws : Nat
deriving DecidableEq, Repr

/-- What the bytes of an instruction are read under in a state (R101). -/
def State.ctx (s : State) : Ctx := { mode := s.mode, csD := s.csD }

/-- The seven exceptions, with their error codes (R301). `none` is "no error code", as REAL has it for #GP and #SS. -/
inductive Exception where
  /-- #UD (R302). -/
  | ud
  /-- #GP (R303). -/
  | gp (code : Option (BitVec 16))
  /-- #SS (R304). -/
  | ss (code : Option (BitVec 16))
  /-- #NP(selector) (R305). -/
  | np (code : BitVec 16)
  /-- #PF(fault-code) (R306). -/
  | pf (code : BitVec 32)
  /-- #AC(0) (R308). -/
  | ac
  /-- #DB (R309). -/
  | db
deriving DecidableEq, Repr

/-- The terminal outcomes of a step that the machine itself has (R300). Each carries the state in which the run ends. -/
inductive Fault where
  /-- Raised by an instruction (R300): the exception, and the state as it was before the instruction but for int_shadow,
  which is 0 (R311). Delivery to a handler is not in the spec (R320). Safe: the model stops where the hardware goes on. -/
  | exception (e : Exception) (s : State)
  /-- Raised by step at an instruction boundary (R318): the environment offered an interrupt and int_shadow was 0. Safe:
  the model stops where the hardware goes on. -/
  | interrupted (s : State)
deriving DecidableEq, Repr

/-- Why the model neither executes nor raises an exception (R300 "Refused"). -/
inductive Refusal where
  /-- An arm of exec that has no meaning yet. Safe. -/
  | notModelled (mnemonic : String)
  /-- Raised by step: the bytes at pc are outside the spec (R130, R107, R101). Safe. -/
  | undecoded (r : Reject)
  /-- Raised by step: pc is just past the last byte of the program text, the normal end of a run (R345(a)). Safe. -/
  | endOfText
  /-- Raised by step: pc is outside the program text (R79, D22). Safe. -/
  | pcOutsideText
  /-- Raised by a data access to an address that does not exist (R83). Safe. -/
  | unmapped (addr : Nat)
  /-- Raised by a store whose bytes overlap the program text (R89, R342). Safe. -/
  | storeIntoText
  /-- Raised by a data read through a code segment that is not readable, in PROT and COMPAT (R68, 91_not_in_source.md
  N10). Safe. -/
  | unreadableCodeRead
  /-- Raised by a write of CR0 that passes every check and would change the operating mode (R248, D23). Safe. -/
  | modeChange
  /-- Raised by MOV to or from CR4 on a processor without CR4 (R47, U9). Safe. -/
  | noCr4
deriving DecidableEq, Repr

/-- The outcome of an instruction or a step. -/
abbrev Outcome := Host.Outcome State Fault Refusal

/-- Why a meaning stops before it has written anything: an exception or a refusal. -/
inductive Stop where
  | exception (e : Exception)
  | refusal (r : Refusal)
deriving DecidableEq, Repr

/-- The parameters in the state after reset. DESIGN CHOICE, log 4, log 5, log 7. -/
def Params.atReset : Params :=
  { procFamily := .p4XeonP6
    vaBits := 48
    cr0Rsvd := 0xFFFFFFFF1FFAFFC0
    cr3Rsvd := 0xFFF0000000000000
    cr4Rsvd := 0xFFFFFFFFFFFDFFC7
    hasDe := true
    hasPse := true
    hasPae := true
    hasPcide := true
    cr8Rsvd := 0xFFFFFFFFFFFFFFF0
    cr0HiFault := false
    dataSegPrivCheck := .both
    hasCr4 := true
    descTable := []
    pageTable := []
    pdptTable := []
    elsewhere := .free
    mapped := [(0, 2 ^ 64 - 1)] }

/-- The hidden part of the data segment registers after reset: "base 0, limit FFFFH, present, writable, accessed data"
(R56, PRESUMED, log 1). -/
def dataSegAtReset : SegReg :=
  { sel := 0
    hidden :=
      { base := 0, limit := .up 0xFFFF, kind := .data, writable := true, readable := true, conforming := false,
        dpl := 0, present := true } }

/-- CS after reset: ".sel F000H, .base FFFF0000H, .limit FFFFH, present, readable, accessed code" (R56, PRESUMED, log 1). -/
def codeSegAtReset : SegReg :=
  { sel := 0xF000
    hidden :=
      { base := 0xFFFF0000, limit := .up 0xFFFF, kind := .code, writable := false, readable := true,
        conforming := false, dpl := 0, present := true } }

/-- The machine right after reset (R56; PRESUMED, log 1; EAX and EDX DESIGN CHOICE, log 2; no program, log 8). -/
def State.reset : State :=
  { x := Vector.replicate 16 0
    pc := 0xFFF0
    flags := { cf := false, pf := false, af := false, zf := false, sf := false, of := false, ac := false }
    seg :=
      { es := dataSegAtReset, cs := codeSegAtReset, ss := dataSegAtReset, ds := dataSegAtReset,
        fs := dataSegAtReset, gs := dataSegAtReset }
    csD := .bits16
    cpl := 0
    cr0 := 0x60000010
    cr2 := 0
    cr3 := 0
    cr4 := 0
    cr8 := 0
    dr0 := 0
    dr1 := 0
    dr2 := 0
    dr3 := 0
    dr6 := 0xFFFF0FF0
    dr7 := 0x400
    mode := .real
    intShadow := false
    tlb := []
    mem := []
    text := { start := 0xFFF0, bytes := [] }
    par := Params.atReset
    offers := []
    draws := 0 }

end Sys2Proof.Machine
end

