-- ==== Sys2Proof/Machine/Ops.lean ====
section
/-! DEFINITION. The named operations over registers and memory, the checks of a data access (20_memory.md R66 to R78), the
oracles (00_scope.md R12), taking an exception (60_exceptions.md R300, R311) and completing an instruction (R29, R165).
Every instruction's meaning is written over these. -/

namespace Sys2Proof

/-! ## Widths and limits -/

/-- The bytes of an operand of a width (R80). -/
def Width.bytes : Width → Nat
  | .b8 => 1
  | .b16 => 2
  | .b32 => 4
  | .b64 => 8

/-- A value cut to a width and zero-extended. -/
def Width.trunc (w : Width) (v : Word) : Word :=
  match w with
  | .b8 => (v.setWidth 8).setWidth 64
  | .b16 => (v.setWidth 16).setWidth 64
  | .b32 => (v.setWidth 32).setWidth 64
  | .b64 => v

/-- InLimit (R34): bytes `off` to `off + n - 1` lie inside a limit, counted without wrap-around. -/
def Limit.contains (l : Limit) (off n : Nat) : Bool :=
  match l with
  | .up limit => decide (off + n - 1 ≤ limit.toNat)
  | .down limit big => decide (limit.toNat < off) && decide (off + n - 1 ≤ if big then 0xFFFFFFFF else 0xFFFF)

end Sys2Proof

namespace Sys2Proof.Machine

/-! ## Named bits of the control and debug registers (R42, R45, R47, R50; PRESUMED positions where the spec marks them so,
log 32) -/

/-- CR0.PE. -/
def cr0PE (v : Word) : Bool := v.getLsbD 0
/-- CR0.ET. -/
def cr0ET (v : Word) : Bool := v.getLsbD 4
/-- CR0.AM (R31). -/
def cr0AM (v : Word) : Bool := v.getLsbD 18
/-- CR0.NW. -/
def cr0NW (v : Word) : Bool := v.getLsbD 29
/-- CR0.CD. -/
def cr0CD (v : Word) : Bool := v.getLsbD 30
/-- CR0.PG. -/
def cr0PG (v : Word) : Bool := v.getLsbD 31
/-- CR4.DE. -/
def cr4DE (v : Word) : Bool := v.getLsbD 3
/-- CR4.PSE. -/
def cr4PSE (v : Word) : Bool := v.getLsbD 4
/-- CR4.PAE. -/
def cr4PAE (v : Word) : Bool := v.getLsbD 5
/-- CR4.PCIDE. -/
def cr4PCIDE (v : Word) : Bool := v.getLsbD 17
/-- DR7.GD. -/
def dr7GD (v : Word) : Bool := v.getLsbD 13

/-! ## General registers (R24, R25) -/

/-- The whole of a general register. -/
def State.reg (s : State) (i : BitVec 4) : Word := s.x[i.toNat]

/-- A general register written whole. -/
def State.setReg (s : State) (i : BitVec 4) (v : Word) : State := { s with x := s.x.set i.toNat v }

/-- Whether a byte-register number names AH, CH, DH or BH: 4 to 7 without a REX prefix (R22, R23). -/
def highByte (i : BitVec 4) (rex : Bool) : Bool := !rex && decide (4 ≤ i) && decide (i ≤ 7)

/-- RegRead (R24), zero-extended to 64 bits. -/
def State.regRead (s : State) (w : Width) (i : BitVec 4) (rex : Bool) : Word :=
  match w with
  | .b8 => if highByte i rex then ((s.reg (i - 4)).extractLsb' 8 8).setWidth 64 else w.trunc (s.reg i)
  | _ => w.trunc (s.reg i)

/-- RegWrite (R25) of the low bits of a value: a 32-bit write clears bits 63:32 in LONG64, the other narrow writes leave
the rest of the register (log 25). -/
def State.regWrite (s : State) (w : Width) (i : BitVec 4) (rex : Bool) (v : Word) : State :=
  match w with
  | .b64 => s.setReg i v
  | .b32 =>
    if s.mode = .long64 then s.setReg i ((v.setWidth 32).setWidth 64)
    else s.setReg i ((s.reg i).extractLsb' 32 32 ++ v.setWidth 32)
  | .b16 => s.setReg i ((s.reg i).extractLsb' 16 48 ++ v.setWidth 16)
  | .b8 =>
    if highByte i rex then
      s.setReg (i - 4) ((s.reg (i - 4)).extractLsb' 16 48 ++ v.setWidth 8 ++ (s.reg (i - 4)).extractLsb' 0 8)
    else s.setReg i ((s.reg i).extractLsb' 8 56 ++ v.setWidth 8)

/-! ## Segment registers (R32) -/

/-- A segment register. -/
def State.sreg (s : State) (r : Sreg) : SegReg :=
  match r with
  | .es => s.seg.es
  | .cs => s.seg.cs
  | .ss => s.seg.ss
  | .ds => s.seg.ds
  | .fs => s.seg.fs
  | .gs => s.seg.gs

/-- A segment register written, both parts. -/
def State.setSreg (s : State) (r : Sreg) (v : SegReg) : State :=
  match r with
  | .es => { s with seg := { s.seg with es := v } }
  | .cs => { s with seg := { s.seg with cs := v } }
  | .ss => { s with seg := { s.seg with ss := v } }
  | .ds => { s with seg := { s.seg with ds := v } }
  | .fs => { s with seg := { s.seg with fs := v } }
  | .gs => { s with seg := { s.seg with gs := v } }

/-- IsNull (R35, R209): selector values 0000H to 0003H. -/
def isNull (sel : BitVec 16) : Bool := sel.extractLsb' 2 14 == 0

/-! ## Memory (R60, R75) -/

/-- The byte at an address. -/
def Memory.read (m : Memory) (a : Nat) : Byte :=
  match m with
  | [] => unlistedByte
  | (k, v) :: rest => if k = a then v else Memory.read rest a

/-- A byte stored at an address, in canonical form. -/
def Memory.write (m : Memory) (a : Nat) (v : Byte) : Memory :=
  match m with
  | [] => if v = unlistedByte then [] else [(a, v)]
  | (k, w) :: rest =>
    if a < k then (if v = unlistedByte then (k, w) :: rest else (a, v) :: (k, w) :: rest)
    else if a = k then (if v = unlistedByte then rest else (a, v) :: rest)
    else (k, w) :: Memory.write rest a v

/-- Bytes stored one after another, each at its own address. -/
def Memory.writeAll (m : Memory) : List (Nat × Byte) → Memory
  | [] => m
  | (a, v) :: rest => Memory.writeAll (Memory.write m a v) rest

/-- The value of bytes, the lowest address first: little-endian (R75, D3). -/
def leValue : List Byte → Word
  | [] => 0
  | b :: bs => leValue bs <<< 8 ||| b.setWidth 64

/-- The low `n` bytes of a value, the lowest address first (R75). -/
def leBytes (n : Nat) (v : Word) : List Byte := (List.range n).map fun k => v.extractLsb' (8 * k) 8

/-! ## Linear addresses (R64, R65) -/

/-- The base that a segment adds to an offset: its hidden base, but 0 for CS, DS, ES and SS in LONG64 (R64, R65). -/
def State.segBase (s : State) (r : Sreg) : Word :=
  if s.mode = .long64 then
    match r with
    | .fs => s.seg.fs.hidden.base
    | .gs => s.seg.gs.hidden.base
    | _ => 0
  else (s.sreg r).hidden.base

/-- An address cut to the width of a linear address: 64 bits in LONG64, 32 otherwise (R64, R65). -/
def State.linWrap (s : State) (a : Word) : Word := if s.mode = .long64 then a else Width.b32.trunc a

/-- The linear address of an offset in a segment (R64, R65). -/
def State.linear (s : State) (r : Sreg) (off : Word) : Word := s.linWrap (s.segBase r + off)

/-! ## Segment-level checks (R66 to R69) -/

/-- A 64-bit address is canonical when bits 63 down to VA_BITS - 1 are all equal (R69). -/
def canonical (vaBits : Nat) (a : Word) : Bool :=
  a.sshiftRight (vaBits - 1) == 0 || a.sshiftRight (vaBits - 1) == BitVec.allOnes 64

/-- The error code of a fault whose code is 0: none in REAL (R66, R301). -/
def State.zeroCode (s : State) : Option (BitVec 16) := if s.mode = .real then none else some 0

/-- #GP(0), or #GP without an error code in REAL (R303). -/
def State.gp0 (s : State) : Exception := .gp s.zeroCode

/-- The exception of a memory operand that lies outside its segment: #SS through SS, #GP otherwise (R66, R69). -/
def State.outside (s : State) (r : Sreg) : Exception := if r = .ss then .ss s.zeroCode else .gp s.zeroCode

/-- Limit check (R66). -/
def State.limitFault (s : State) (r : Sreg) (off : Word) (n : Nat) : Option Exception :=
  if (s.sreg r).hidden.limit.contains off.toNat n then none else some (s.outside r)

/-- NULL-segment check (R67). -/
def State.nullFault (s : State) (r : Sreg) : Option Exception :=
  match r with
  | .ds | .es | .fs | .gs => if isNull (s.sreg r).sel then some s.gp0 else none
  | .cs | .ss => none

/-- Write-permission check (R68). -/
def State.writeFault (s : State) (r : Sreg) (acc : Access) : Option Exception :=
  match acc, (s.sreg r).hidden.kind with
  | .write, .code => some s.gp0
  | .write, .data => if (s.sreg r).hidden.writable then none else some s.gp0
  | _, _ => none

/-- Canonical check of the first and the last byte (R69). -/
def State.canonicalFault (s : State) (r : Sreg) (off : Word) (n : Nat) : Option Exception :=
  if canonical s.par.vaBits (s.linear r off) && canonical s.par.vaBits (s.linear r off + BitVec.ofNat 64 (n - 1)) then none
  else some (s.outside r)

/-- Which of two checks of one stage is reported: the one that fails, and a free choice when both do (R70, R312, D8; log
15). -/
def State.eitherFault (s : State) (a b : Option Exception) : Option Exception :=
  match a, b with
  | none, b => b
  | some a, none => some a
  | some a, some b => if Config.drawBit s.draws then some a else some b

/-- Stage 1 of LoadOp and StoreOp: the segment-level checks of the mode (R70, R71). -/
def State.segFault (s : State) (r : Sreg) (off : Word) (n : Nat) (acc : Access) : Option Exception :=
  match s.mode with
  | .real | .v86 => s.limitFault r off n
  | .prot | .compat => s.eitherFault (s.eitherFault (s.nullFault r) (s.limitFault r off n)) (s.writeFault r acc)
  | .long64 => s.canonicalFault r off n

/-- A data read through a code segment that is not readable, in PROT and COMPAT: refused (R68, N10; log 19). -/
def State.unreadable (s : State) (r : Sreg) (acc : Access) : Bool :=
  match s.mode, acc with
  | .prot, .read | .compat, .read => decide ((s.sreg r).hidden.kind = .code) && !(s.sreg r).hidden.readable
  | _, _ => false

/-! ## Alignment and paging (R73, R78) -/

/-- AlignCheckEnabled (R78, D29). -/
def State.alignChecked (s : State) : Bool := cr0AM s.cr0 && s.flags.ac && decide (s.cpl = 3)

/-- Whether a linear address raises #AC for an access of `n` bytes (R78). -/
def State.misaligned (s : State) (lin : Word) (n : Nat) : Bool := s.alignChecked && decide (lin.toNat % n ≠ 0)

/-- PageCheck (R12(b), R73, D5): the identity while CR0.PG = 0, otherwise what the oracle says (log 5, log 6). -/
def State.pageCheck (s : State) (lin : Word) (n : Nat) (acc : Access) : PageResult :=
  if cr0PG s.cr0 then
    match s.par.pageTable.lookup { cr0 := s.cr0, cr3 := s.cr3, cr4 := s.cr4, lin := lin, n := n, access := acc, cpl := s.cpl } with
    | some r => r
    | none =>
      match s.par.elsewhere with
      | .plain => .ok lin
      | .free =>
        Config.pageCheck { cr0 := s.cr0, cr3 := s.cr3, cr4 := s.cr4, lin := lin, n := n, access := acc, cpl := s.cpl }
  else .ok lin

/-- Stage 2 of LoadOp and StoreOp: the alignment check and the page check, neither in REAL, either of which may be
reported when both fail (R70, R73, R78, D8); the physical address when neither does. -/
def State.pageStage (s : State) (lin : Word) (n : Nat) (acc : Access) : Except Exception Word :=
  if s.mode = .real then .ok lin
  else
    match s.misaligned lin n, s.pageCheck lin n acc with
    | false, .ok phys => .ok phys
    | true, .ok _ => .error .ac
    | false, .fault code => .error (.pf code)
    | true, .fault code => .error (if Config.drawBit s.draws then .ac else .pf code)

/-! ## Data accesses (R70, R71) -/

/-- The address of byte `k` of an access: modulo 2^32 where addresses are 32-bit linear ones, modulo 2^64 in LONG64 and
behind paging (R13, R64, R65; log 18). -/
def State.byteAddr (s : State) (phys : Word) (k : Nat) : Nat :=
  if s.mode = .long64 ∨ (s.mode ≠ .real ∧ cr0PG s.cr0 = true) then (phys + BitVec.ofNat 64 k).toNat
  else (Width.b32.trunc (phys + BitVec.ofNat 64 k)).toNat

/-- The addresses of the `n` bytes of an access. -/
def State.byteAddrs (s : State) (phys : Word) (n : Nat) : List Nat := (List.range n).map (s.byteAddr phys)

/-- Mapped (R83). -/
def State.isMapped (s : State) (a : Nat) : Bool := s.par.mapped.any fun r => decide (r.1 ≤ a) && decide (a ≤ r.2)

/-- The checks of an access of `n` bytes and the physical address of its first byte (R70, R71): stage 1, then stage 2,
then that every byte exists (R83). -/
def State.access (s : State) (r : Sreg) (off : Word) (n : Nat) (acc : Access) : Except Stop Word :=
  match s.segFault r off n acc with
  | some e => .error (.exception e)
  | none =>
    if s.unreadable r acc then .error (.refusal .unreadableCodeRead)
    else
      match s.pageStage (s.linear r off) n acc with
      | .error e => .error (.exception e)
      | .ok phys =>
        match (s.byteAddrs phys n).find? fun a => !s.isMapped a with
        | some a => .error (.refusal (.unmapped a))
        | none => .ok phys

/-- LoadOp (R70): the value of a source memory operand, zero-extended. -/
def State.loadOp (s : State) (r : Sreg) (off : Word) (n : Nat) : Except Stop Word :=
  match s.access r off n .read with
  | .error e => .error e
  | .ok phys => .ok (leValue ((s.byteAddrs phys n).map s.mem.read))

/-! ## The program text (R342) -/

/-- The number of offsets of the instruction pointer: 2^64 in LONG64, 2^16 when the code segment's default size is 16
bits, 2^32 otherwise (R29). -/
def State.pcWrap (s : State) (a : Word) : Word :=
  match s.mode, s.csD with
  | .long64, _ => a
  | .real, _ | .v86, _ => Width.b16.trunc a
  | .prot, .bits16 | .compat, .bits16 => Width.b16.trunc a
  | .prot, .bits32 | .compat, .bits32 => Width.b32.trunc a

/-- How far an offset of the code segment lies behind the first byte of the text. -/
def State.textIndex (s : State) (off : Word) : Nat := (s.pcWrap (off - s.text.start)).toNat

/-- Whether a linear address holds a byte of the program text (R342: the text lies at a CS-relative offset; log 9). -/
def State.inText (s : State) (lin : Word) : Bool :=
  decide (s.pcWrap (s.linWrap (lin - s.segBase .cs)) = s.linWrap (lin - s.segBase .cs))
    && decide (s.textIndex (s.linWrap (lin - s.segBase .cs)) < s.text.bytes.length)

/-- Whether one of the `n` bytes at a linear address overlaps the program text (R89). -/
def State.hitsText (s : State) (lin : Word) (n : Nat) : Bool :=
  (List.range n).any fun k => s.inText (s.linWrap (lin + BitVec.ofNat 64 k))

/-- StoreOp (R71): the low `n` bytes of a value stored to a destination memory operand; every check comes before the
write, and a store that overlaps the program text is refused (R89). A store that overlaps the text and also fails a check
of its access reports the check: DESIGN CHOICE, log 42. -/
def State.storeOp (s : State) (r : Sreg) (off : Word) (n : Nat) (v : Word) : Except Stop State :=
  match s.access r off n .write with
  | .error e => .error e
  | .ok phys =>
    if s.hitsText (s.linear r off) n then .error (.refusal .storeIntoText)
    else .ok { s with mem := s.mem.writeAll ((s.byteAddrs phys n).zip (leBytes n v)) }

/-! ## Exceptions and completion -/

/-- Taking an exception (R300, R311, R320): terminal, the state as before the instruction with int_shadow cleared. The
spec gives no delivery and no return (R320, R321); log 14. -/
def raise (e : Exception) (s : State) : Outcome := .fault (.exception e { s with intShadow := false })

/-- Completing an instruction of `len` bytes: pc moves past it and int_shadow is cleared (R29, R165, R218). -/
def State.complete (s : State) (len : Nat) : State :=
  { s with pc := s.pcWrap (s.pc + BitVec.ofNat 64 len), intShadow := false }

/-- The outcome of an instruction that started in `s`: its next state, the exception it raises, or a refusal (R300). -/
def settle (s : State) (r : Except Stop State) : Outcome :=
  match r with
  | .ok t => .next t
  | .error (.exception e) => raise e s
  | .error (.refusal q) => .refused q

/-- A MOV-Move instruction: #UD under LOCK before anything is read (R163), then its effect, then completion (R164). -/
def moveStep (p : Prefixes) (len : Nat) (s : State) (effect : Except Stop State) : Outcome :=
  if p.lock then raise .ud s else settle s (effect.map fun t => t.complete len)

end Sys2Proof.Machine
end

