-- ==== Sys2Proof/Machine/Flags.lean ====
section
/-! DEFINITION. Flag computations. The 34 MOV-Move forms change no flag (10_state.md R30); the ten moves to and from control
and debug registers leave the six status flags undefined (42_mov_control.md R253, 43_mov_debug.md R280). -/

namespace Sys2Proof.Machine

/-- UndefFlags (R253): each of OF, SF, ZF, AF, PF and CF takes a free value; AC is unchanged (log 12). -/
def State.undefFlags (s : State) : State :=
  { s with
    flags :=
      { of := Config.drawBit s.draws
        sf := Config.drawBit (s.draws + 1)
        zf := Config.drawBit (s.draws + 2)
        af := Config.drawBit (s.draws + 3)
        pf := Config.drawBit (s.draws + 4)
        cf := Config.drawBit (s.draws + 5)
        ac := s.flags.ac }
    draws := s.draws + 6 }

end Sys2Proof.Machine
end

