-- ==== Sys2Proof/Machine/Operands.lean ====
section
/-! DEFINITION. Operand forms: the effective address and segment of a memory operand (30_encoding.md R115 to R118,
20_memory.md R62, R63, R105), the r/m operand (40_mov_general.md R161), direct offsets (R121), and the data moves that the
rows of 40_mov_general.md share. -/

namespace Sys2Proof

/-! ## Offsets, displacements, default segments -/

/-- An offset modulo 2^AddrSize, zero-extended (R62, R115). -/
def AddrSize.wrap (a : AddrSize) (v : Word) : Word :=
  match a with
  | .a16 => Width.b16.trunc v
  | .a32 => Width.b32.trunc v
  | .a64 => v

/-- A 16-bit displacement, sign-extended (R118). -/
def Disp16.value : Disp16 → Word
  | .none => 0
  | .d8 v => v.signExtend 64
  | .d16 v => v.signExtend 64

/-- A 32-bit displacement, sign-extended (R115). -/
def Disp32.value : Disp32 → Word
  | .none => 0
  | .d8 v => v.signExtend 64
  | .d32 v => v.signExtend 64

/-- The offset of a `moffs` operand: zero-extended, not sign-extended. -/
def Moffs.value : Moffs → Word
  | .o16 v => v.setWidth 64
  | .o32 v => v.setWidth 64
  | .o64 v => v

/-- The default segment of a memory operand (R63, R115, R116, R118): SS with rBP or rSP as its base, DS otherwise. -/
def MemForm.defaultSeg (p : Prefixes) (m : MemForm) : Sreg :=
  match m with
  | .regs16 rm _ => if rm = 2 ∨ rm = 3 ∨ rm = 6 then .ss else .ds
  | .abs16 _ => .ds
  | .based rm _ => if p.rmNum rm = 5 then .ss else .ds
  | .disp32 _ => .ds
  | .sib _ _ base _ => if p.rmNum base = 4 ∨ p.rmNum base = 5 then .ss else .ds
  | .sibNoBase _ _ _ => .ds

end Sys2Proof

namespace Sys2Proof.Machine

/-! ## Effective addresses -/

/-- The sum of registers that `rm` names under 16-bit addressing (R118): BX 3, BP 5, SI 6, DI 7. -/
def State.regs16 (s : State) (rm : BitVec 3) : Word :=
  match rm.toNat with
  | 0 => s.reg 3 + s.reg 6
  | 1 => s.reg 3 + s.reg 7
  | 2 => s.reg 5 + s.reg 6
  | 3 => s.reg 5 + s.reg 7
  | 4 => s.reg 6
  | 5 => s.reg 7
  | 6 => s.reg 5
  | _ => s.reg 3

/-- The scaled index of a SIB byte (R116): none when the 4-bit number is 4. -/
def State.scaledIndex (s : State) (a : AddrSize) (i : BitVec 4) (scale : BitVec 2) : Word :=
  if i = 4 then 0 else a.wrap (s.reg i) <<< scale.toNat

/-- The offset of a memory operand of an instruction of `len` bytes (R115 to R118). -/
def State.memOffset (s : State) (p : Prefixes) (len : Nat) (m : MemForm) : Word :=
  let a := addrSize s.ctx p
  match m with
  | .regs16 rm d => AddrSize.a16.wrap (s.regs16 rm + d.value)
  | .abs16 v => v.setWidth 64
  | .based rm d => a.wrap (s.reg (p.rmNum rm) + d.value)
  | .disp32 v =>
    if s.mode = .long64 then a.wrap (s.pc + BitVec.ofNat 64 len + v.signExtend 64) else v.setWidth 64
  | .sib scale index base d =>
    a.wrap (a.wrap (s.reg (p.rmNum base)) + s.scaledIndex a (p.indexNum index) scale + d.value)
  | .sibNoBase scale index v => a.wrap (s.scaledIndex a (p.indexNum index) scale + v.signExtend 64)

/-- The segment of an operand: the last override that has effect in the mode, else the default (R105; log 17). -/
def State.segOf (s : State) (p : Prefixes) (dflt : Sreg) : Sreg :=
  if s.mode = .long64 then (p.overrides.find? fun r => decide (r = .fs ∨ r = .gs)).getD dflt
  else p.overrides.head?.getD dflt

/-! ## The r/m operand (R161) -/

/-- RM(n) read. -/
def State.readRm (s : State) (p : Prefixes) (len : Nat) (w : Width) (rm : Rm) : Except Stop Word :=
  match rm with
  | .reg r => .ok (s.regRead w (p.rmNum r) p.hasRex)
  | .mem m => s.loadOp (s.segOf p (m.defaultSeg p)) (s.memOffset p len m) w.bytes

/-- RM(n) written. -/
def State.writeRm (s : State) (p : Prefixes) (len : Nat) (w : Width) (rm : Rm) (v : Word) : Except Stop State :=
  match rm with
  | .reg r => .ok (s.regWrite w (p.rmNum r) p.hasRex v)
  | .mem m => s.storeOp (s.segOf p (m.defaultSeg p)) (s.memOffset p len m) w.bytes v

/-! ## Direct offsets (R121) -/

/-- The segment of a `moffs` operand: DS unless overridden (R63, R121). -/
def State.moffsSeg (s : State) (p : Prefixes) : Sreg := s.segOf p .ds

/-! ## The moves of 40_mov_general.md, one for each operand-encoding class (R111, R160, R164) -/

/-- Class MR: `RM(n) <- r`. -/
def moveToRm (w : Width) (p : Prefixes) (len : Nat) (reg : BitVec 3) (rm : Rm) (s : State) : Outcome :=
  moveStep p len s (s.writeRm p len w rm (s.regRead w (p.regNum reg) p.hasRex))

/-- Class RM: `r <- RM(n)`. -/
def moveFromRm (w : Width) (p : Prefixes) (len : Nat) (reg : BitVec 3) (rm : Rm) (s : State) : Outcome :=
  moveStep p len s ((s.readRm p len w rm).map fun v => s.regWrite w (p.regNum reg) p.hasRex v)

/-- Class FD: the accumulator `<- moffs`. -/
def moveFromMoffs (w : Width) (p : Prefixes) (len : Nat) (off : Moffs) (s : State) : Outcome :=
  moveStep p len s
    ((s.loadOp (s.moffsSeg p) off.value w.bytes).map fun v => s.regWrite w 0 p.hasRex v)

/-- Class TD: `moffs <-` the accumulator. -/
def moveToMoffs (w : Width) (p : Prefixes) (len : Nat) (off : Moffs) (s : State) : Outcome :=
  moveStep p len s (s.storeOp (s.moffsSeg p) off.value w.bytes (s.regRead w 0 p.hasRex))

/-- Class OI: `r <- imm`. -/
def moveImmToReg (w : Width) (p : Prefixes) (len : Nat) (r : BitVec 3) (imm : Word) (s : State) : Outcome :=
  moveStep p len s (.ok (s.regWrite w (p.rmNum r) p.hasRex imm))

/-- Class MI: `RM(n) <- imm`. -/
def moveImmToRm (w : Width) (p : Prefixes) (len : Nat) (rm : Rm) (imm : Word) (s : State) : Outcome :=
  moveStep p len s (s.writeRm p len w rm imm)

/-! ## The one data access of an instruction (R80) -/

/-- A data access: its segment, its offset, its number of bytes and its kind (R80). -/
structure DataAccess where
  seg : Sreg
  off : Word
  n : Nat
  acc : Access
deriving DecidableEq, Repr

/-- The data access of an r/m operand: none for a register (R161). -/
def State.rmAccess (s : State) (p : Prefixes) (len n : Nat) (acc : Access) (rm : Rm) : Option DataAccess :=
  match rm with
  | .reg _ => none
  | .mem m => some { seg := s.segOf p (m.defaultSeg p), off := s.memOffset p len m, n := n, acc := acc }

/-- The data access of a direct offset (R121). -/
def State.moffsAccess (s : State) (p : Prefixes) (n : Nat) (acc : Access) (off : Moffs) : Option DataAccess :=
  some { seg := s.moffsSeg p, off := off.value, n := n, acc := acc }

/-- The data access of an instruction: at most one, of its operand size; two bytes for a selector; none for the moves to
and from control and debug registers (R80, R201). -/
def State.dataAccess (s : State) (i : Instr) : Option DataAccess :=
  match i with
  | .movRm8R8 p reg rm => s.rmAccess p (Instr.movRm8R8 p reg rm).size 1 .write rm
  | .movRm8R8Rex p reg rm => s.rmAccess p (Instr.movRm8R8Rex p reg rm).size 1 .write rm
  | .movRm16R16 p reg rm => s.rmAccess p (Instr.movRm16R16 p reg rm).size 2 .write rm
  | .movRm32R32 p reg rm => s.rmAccess p (Instr.movRm32R32 p reg rm).size 4 .write rm
  | .movRm64R64 p reg rm => s.rmAccess p (Instr.movRm64R64 p reg rm).size 8 .write rm
  | .movR8Rm8 p reg rm => s.rmAccess p (Instr.movR8Rm8 p reg rm).size 1 .read rm
  | .movR8Rm8Rex p reg rm => s.rmAccess p (Instr.movR8Rm8Rex p reg rm).size 1 .read rm
  | .movR16Rm16 p reg rm => s.rmAccess p (Instr.movR16Rm16 p reg rm).size 2 .read rm
  | .movR32Rm32 p reg rm => s.rmAccess p (Instr.movR32Rm32 p reg rm).size 4 .read rm
  | .movR64Rm64 p reg rm => s.rmAccess p (Instr.movR64Rm64 p reg rm).size 8 .read rm
  | .movRm16Sreg p sreg rm => s.rmAccess p (Instr.movRm16Sreg p sreg rm).size 2 .write rm
  | .movRm64Sreg p sreg rm => s.rmAccess p (Instr.movRm64Sreg p sreg rm).size 2 .write rm
  | .movSregRm16 p sreg rm => s.rmAccess p (Instr.movSregRm16 p sreg rm).size 2 .read rm
  | .movSregRm64 p sreg rm => s.rmAccess p (Instr.movSregRm64 p sreg rm).size 2 .read rm
  | .movAlMoffs8 p off => s.moffsAccess p 1 .read off
  | .movAlMoffs8RexW p off => s.moffsAccess p 1 .read off
  | .movAxMoffs16 p off => s.moffsAccess p 2 .read off
  | .movEaxMoffs32 p off => s.moffsAccess p 4 .read off
  | .movRaxMoffs64 p off => s.moffsAccess p 8 .read off
  | .movMoffs8Al p off => s.moffsAccess p 1 .write off
  | .movMoffs8AlRexW p off => s.moffsAccess p 1 .write off
  | .movMoffs16Ax p off => s.moffsAccess p 2 .write off
  | .movMoffs32Eax p off => s.moffsAccess p 4 .write off
  | .movMoffs64Rax p off => s.moffsAccess p 8 .write off
  | .movR8Imm8 _ _ _ => none
  | .movR8Imm8Rex _ _ _ => none
  | .movR16Imm16 _ _ _ => none
  | .movR32Imm32 _ _ _ => none
  | .movR64Imm64 _ _ _ => none
  | .movRm8Imm8 p rm imm => s.rmAccess p (Instr.movRm8Imm8 p rm imm).size 1 .write rm
  | .movRm8Imm8Rex p rm imm => s.rmAccess p (Instr.movRm8Imm8Rex p rm imm).size 1 .write rm
  | .movRm16Imm16 p rm imm => s.rmAccess p (Instr.movRm16Imm16 p rm imm).size 2 .write rm
  | .movRm32Imm32 p rm imm => s.rmAccess p (Instr.movRm32Imm32 p rm imm).size 4 .write rm
  | .movRm64Imm32 p rm imm => s.rmAccess p (Instr.movRm64Imm32 p rm imm).size 8 .write rm
  | .movR32Cr _ _ _ _ => none
  | .movR64Cr _ _ _ _ => none
  | .movR64Cr8 _ _ _ => none
  | .movCrR32 _ _ _ _ => none
  | .movCrR64 _ _ _ _ => none
  | .movCr8R64 _ _ _ => none
  | .movR32Dr _ _ _ _ => none
  | .movR64Dr _ _ _ _ => none
  | .movDrR32 _ _ _ _ => none
  | .movDrR64 _ _ _ _ => none

end Sys2Proof.Machine
end

