-- ==== Sys2Proof/Machine/Control.lean ====
section
/-! DEFINITION. The operations of MOV to and from control registers: the common checks (42_mov_control.md R238), reading
(R239), and what a write does register by register (R240 to R252). -/

namespace Sys2Proof.Machine

/-- The exception of a MOV to or from a control or debug register under LOCK: #UD, but in V86 #UD or #GP(0), a free choice
(R238, R277, R307; log 15). -/
def State.lockFault (s : State) : Exception :=
  if decide (s.mode = .v86) && Config.drawBit s.draws then s.gp0 else .ud

/-- CrCommon (R238), `c` the control register number. -/
def State.crFault (s : State) (p : Prefixes) (c : BitVec 4) : Option Exception :=
  if p.lock then some s.lockFault
  else if s.mode = .v86 then some s.gp0
  else if c = 1 ∨ c = 5 ∨ c = 6 ∨ c = 7 then some .ud
  else if 9 ≤ c then some .ud
  else if s.cpl ≠ 0 then some s.gp0
  else none

/-- A processor without CR4 (R47, U9; log 20). -/
def State.noCr4 (s : State) : Bool := decide (s.par.procFamily = .earlierIA32) && !s.par.hasCr4

/-- CrRead (R239). -/
def State.crRead (s : State) (c : BitVec 4) : Word :=
  match c.toNat with
  | 0 => s.cr0
  | 2 => s.cr2
  | 3 => s.cr3
  | 4 => s.cr4
  | 8 => s.cr8
  | _ => 0

/-- PdptCheck (R12(c), R247): Ok whenever the resulting state has PG = 0 or PAE = 0, otherwise what the oracle says (log
5). -/
def State.pdptCheck (s : State) (cr : BitVec 4) (v : Word) : PdptResult :=
  if (if cr = 0 then cr0PG v else cr0PG s.cr0) && (if cr = 4 then cr4PAE v else cr4PAE s.cr4) then
    match s.par.pdptTable.lookup { cr := cr, value := v } with
    | some r => r
    | none =>
      match s.par.elsewhere with
      | .plain => .ok
      | .free => Config.pdptCheck { cr := cr, value := v }
  else .ok

/-- The PDPT clause of a write of a control register: in PROT only (R247). -/
def State.pdptFault (s : State) (cr : BitVec 4) (v : Word) : Bool :=
  decide (s.mode = .prot) && decide (s.pdptCheck cr v = .reservedBitsSet)

/-- An invalid bit combination of CR0 (R43). -/
def cr0Invalid (v : Word) : Bool := (cr0PG v && !cr0PE v) || (!cr0CD v && cr0NW v)

/-- Whether a write of CR0 raises #GP (R240), check by check. -/
def State.cr0Fault (s : State) (v : Word) : Bool :=
  cr0Invalid v
    || (decide (s.mode = .long64) && cr0PG s.cr0 && !cr0PG v)
    || (decide (s.mode = .compat) && cr0PG s.cr0 && !cr0PG v && cr4PCIDE s.cr4)
    || (decide (s.mode = .long64) && s.par.cr0HiFault && decide (v.extractLsb' 32 32 ≠ 0))
    || s.pdptFault 0 v

/-- Whether a write of CR0 would change the operating mode (R248). -/
def State.cr0ChangesMode (s : State) (v : Word) : Bool :=
  decide (cr0PE v ≠ cr0PE s.cr0) || (decide (s.mode = .compat) && decide (cr0PG v ≠ cr0PG s.cr0))

/-- The value a write of CR0 stores: reserved bits dropped (R241), ET set on P4_XEON_P6 (R242). -/
def State.cr0Stored (s : State) (v : Word) : Word :=
  let w := v &&& ~~~s.par.cr0Rsvd
  if s.par.procFamily = .p4XeonP6 then w ||| 0x10 else w

/-- The full flush of P4_XEON_P6 (R252), when the bits named there change. -/
def State.flushEvents (s : State) (changed : Bool) : List TlbEvent :=
  if decide (s.par.procFamily = .p4XeonP6) && changed then [.flushAll] else []

/-- CrWrite(0, v) (R240). -/
def State.writeCr0 (s : State) (v : Word) : Except Stop State :=
  if s.cr0Fault v then .error (.exception s.gp0)
  else if s.cr0ChangesMode v then .error (.refusal .modeChange)
  else
    .ok { s with
      cr0 := s.cr0Stored v
      tlb := s.tlb ++ .cr0Write s.cr0 (s.cr0Stored v)
        :: s.flushEvents (decide (cr0PE v ≠ cr0PE s.cr0) || decide (cr0PG v ≠ cr0PG s.cr0)) }

/-- Whether the mode is one of IA-32e mode (R5, R244). -/
def State.ia32e (s : State) : Bool := decide (s.mode = .compat) || decide (s.mode = .long64)

/-- The bits of CR3 that may not be written with a 1 in IA-32e mode: bit 63 is a command while PCIDE = 1 (R244). -/
def State.cr3Forbidden (s : State) : Word :=
  if cr4PCIDE s.cr4 then s.par.cr3Rsvd &&& ~~~(0x8000000000000000 : Word) else s.par.cr3Rsvd

/-- CrWrite(3, v) (R244). A value of 32 bits has bit 63 clear, so `noflush` needs no width. -/
def State.writeCr3 (s : State) (v : Word) : Except Stop State :=
  if s.ia32e && decide (v &&& s.cr3Forbidden ≠ 0) then .error (.exception s.gp0)
  else if s.pdptFault 3 v then .error (.exception s.gp0)
  else
    .ok { s with
      cr3 := v &&& ~~~s.par.cr3Rsvd
      tlb := s.tlb ++ [.cr3Write (cr4PCIDE s.cr4 && v.getLsbD 63)] }

/-- Whether a write of CR4 raises #GP (R245), check by check. -/
def State.cr4Fault (s : State) (v : Word) : Bool :=
  decide (v &&& s.par.cr4Rsvd ≠ 0)
    || ((decide (s.mode = .real) || decide (s.mode = .prot)) && cr4PCIDE v)
    || (s.ia32e && !cr4PCIDE s.cr4 && cr4PCIDE v && decide (s.cr3.extractLsb' 0 12 ≠ 0))
    || (s.ia32e && cr4PAE s.cr4 && !cr4PAE v)
    || s.pdptFault 4 v

/-- CrWrite(4, v) (R245). -/
def State.writeCr4 (s : State) (v : Word) : Except Stop State :=
  if s.cr4Fault v then .error (.exception s.gp0)
  else
    .ok { s with
      cr4 := v
      tlb := s.tlb ++ .cr4Write s.cr4 v
        :: s.flushEvents (decide (cr4PSE v ≠ cr4PSE s.cr4) || decide (cr4PAE v ≠ cr4PAE s.cr4)) }

/-- CrWrite(8, v) (R246). -/
def State.writeCr8 (s : State) (v : Word) : Except Stop State :=
  if v &&& s.par.cr8Rsvd ≠ 0 then .error (.exception s.gp0) else .ok { s with cr8 := v }

/-- CrWrite(c, v) (R240, R243 to R246). A number that names no control register never gets here (R238). -/
def State.crWrite (s : State) (c : BitVec 4) (v : Word) : Except Stop State :=
  match c.toNat with
  | 0 => s.writeCr0 v
  | 2 => .ok { s with cr2 := v }
  | 3 => s.writeCr3 v
  | 4 => s.writeCr4 v
  | 8 => s.writeCr8 v
  | _ => .error (.exception .ud)

/-- The end of a MOV to or from a control or debug register: the six flags undefined, then completion (R253, R280). -/
def State.completeUndef (s : State) (len : Nat) : State := s.undefFlags.complete len

/-- MOV r, CRn (R232 to R234) at a width: 32 bits outside LONG64, 64 in it (R231). -/
def moveFromCr (w : Width) (p : Prefixes) (len : Nat) (c : BitVec 4) (rm : BitVec 3) (s : State) : Outcome :=
  match s.crFault p c with
  | some e => raise e s
  | none =>
    if decide (c = 4) && s.noCr4 then .refused .noCr4
    else .next ((s.regWrite w (p.rmNum rm) false (s.crRead c)).completeUndef len)

/-- MOV CRn, r (R235 to R237) at a width: 32 bits outside LONG64, 64 in it (R231). -/
def moveToCr (w : Width) (p : Prefixes) (len : Nat) (c : BitVec 4) (rm : BitVec 3) (s : State) : Outcome :=
  match s.crFault p c with
  | some e => raise e s
  | none =>
    if decide (c = 4) && s.noCr4 then .refused .noCr4
    else settle s ((s.crWrite c (w.trunc (s.reg (p.rmNum rm)))).map fun t => t.completeUndef len)

end Sys2Proof.Machine
end

