-- ==== Sys2Proof/Machine/MovControl.lean ====
section
/-! DEFINITION. Rows 35 to 40 of R124: moves to and from control registers (42_mov_control.md). -/

namespace Sys2Proof.Machine

/-- Row 35, MOV r32, CR0 to CR7 (R232). -/
def execMovR32Cr (p : Prefixes) (mod : BitVec 2) (cr : BitVec 3) (rm : BitVec 3) (s : State) : Outcome :=
  moveFromCr .b32 p (Instr.movR32Cr p mod cr rm).size (p.regNum cr) rm s

/-- Row 36, MOV r64, CR0 to CR7 (R233); the numbers 9 to 15 raise #UD (R126). -/
def execMovR64Cr (p : Prefixes) (mod : BitVec 2) (cr : BitVec 3) (rm : BitVec 3) (s : State) : Outcome :=
  moveFromCr .b64 p (Instr.movR64Cr p mod cr rm).size (p.regNum cr) rm s

/-- Row 37, MOV r64, CR8 (R234). -/
def execMovR64Cr8 (p : Prefixes) (mod : BitVec 2) (rm : BitVec 3) (s : State) : Outcome :=
  moveFromCr .b64 p (Instr.movR64Cr8 p mod rm).size 8 rm s

/-- Row 38, MOV CR0 to CR7, r32 (R235). -/
def execMovCrR32 (p : Prefixes) (mod : BitVec 2) (cr : BitVec 3) (rm : BitVec 3) (s : State) : Outcome :=
  moveToCr .b32 p (Instr.movCrR32 p mod cr rm).size (p.regNum cr) rm s

/-- Row 39, MOV CR0 to CR7, r64 (R236); the numbers 9 to 15 raise #UD (R126). -/
def execMovCrR64 (p : Prefixes) (mod : BitVec 2) (cr : BitVec 3) (rm : BitVec 3) (s : State) : Outcome :=
  moveToCr .b64 p (Instr.movCrR64 p mod cr rm).size (p.regNum cr) rm s

/-- Row 40, MOV CR8, r64 (R237). -/
def execMovCr8R64 (p : Prefixes) (mod : BitVec 2) (rm : BitVec 3) (s : State) : Outcome :=
  moveToCr .b64 p (Instr.movCr8R64 p mod rm).size 8 rm s

end Sys2Proof.Machine
end

