-- ==== Sys2Proof/Machine/Debug.lean ====
section
/-! DEFINITION. The operations of MOV to and from debug registers: the common checks (43_mov_debug.md R277), the DR4 and
DR5 aliases (R276), general detect (R279) and the write (R275, R282). -/

namespace Sys2Proof.Machine

/-- CR4.DE as the debug-register moves see it: 0 on a processor without CR4 (R276). -/
def State.debugExt (s : State) : Bool := cr4DE s.cr4 && !s.noCr4

/-- DrIndex (R276): DR4 and DR5 are DR6 and DR7 while DE = 0. -/
def drIndex (d : BitVec 3) : BitVec 3 := if d = 4 ∨ d = 5 then d + 2 else d

/-- DrCommon (R277), `d` the debug register number of the instruction. -/
def State.drFault (s : State) (p : Prefixes) (d : BitVec 3) : Option Exception :=
  if p.lock then some s.lockFault
  else if s.mode = .v86 then some s.gp0
  else if p.rexR then some .ud
  else if (d = 4 ∨ d = 5) ∧ s.debugExt = true then some .ud
  else if s.cpl ≠ 0 then some s.gp0
  else if dr7GD s.dr7 then some .db
  else none

/-- A debug register by its resolved index (R49). -/
def State.drRead (s : State) (i : BitVec 3) : Word :=
  match i.toNat with
  | 0 => s.dr0
  | 1 => s.dr1
  | 2 => s.dr2
  | 3 => s.dr3
  | 6 => s.dr6
  | 7 => s.dr7
  | _ => 0

/-- A debug register written by its resolved index (R49, R50). -/
def State.drStore (s : State) (i : BitVec 3) (v : Word) : State :=
  match i.toNat with
  | 0 => { s with dr0 := v }
  | 1 => { s with dr1 := v }
  | 2 => { s with dr2 := v }
  | 3 => { s with dr3 := v }
  | 6 => { s with dr6 := v }
  | 7 => { s with dr7 := v }
  | _ => s

/-- A write of a debug register: #GP(0) for a 1 in bits 63:32 of DR6 or DR7 (R275, R282), which a 32-bit value cannot
hold. -/
def State.drWrite (s : State) (i : BitVec 3) (v : Word) : Except Stop State :=
  if (i = 6 ∨ i = 7) ∧ v.extractLsb' 32 32 ≠ 0 then .error (.exception s.gp0) else .ok (s.drStore i v)

/-- MOV r, DRn (R272, R273) at a width: 32 bits outside LONG64, 64 in it (R271). -/
def moveFromDr (w : Width) (p : Prefixes) (len : Nat) (d rm : BitVec 3) (s : State) : Outcome :=
  match s.drFault p d with
  | some e => raise e s
  | none => .next ((s.regWrite w (p.rmNum rm) false (s.drRead (drIndex d))).completeUndef len)

/-- MOV DRn, r (R274, R275) at a width: 32 bits outside LONG64, 64 in it (R271). -/
def moveToDr (w : Width) (p : Prefixes) (len : Nat) (d rm : BitVec 3) (s : State) : Outcome :=
  match s.drFault p d with
  | some e => raise e s
  | none => settle s ((s.drWrite (drIndex d) (w.trunc (s.reg (p.rmNum rm)))).map fun t => t.completeUndef len)

end Sys2Proof.Machine
end

