-- ==== Sys2Proof/Machine/MovDebug.lean ====
section
/-! DEFINITION. Rows 41 to 44 of R124: moves to and from debug registers (43_mov_debug.md). -/

namespace Sys2Proof.Machine

/-- Row 41, MOV r32, DR0 to DR7 (R272). -/
def execMovR32Dr (p : Prefixes) (mod : BitVec 2) (dr : BitVec 3) (rm : BitVec 3) (s : State) : Outcome :=
  moveFromDr .b32 p (Instr.movR32Dr p mod dr rm).size dr rm s

/-- Row 42, MOV r64, DR0 to DR7 (R273). -/
def execMovR64Dr (p : Prefixes) (mod : BitVec 2) (dr : BitVec 3) (rm : BitVec 3) (s : State) : Outcome :=
  moveFromDr .b64 p (Instr.movR64Dr p mod dr rm).size dr rm s

/-- Row 43, MOV DR0 to DR7, r32 (R274). -/
def execMovDrR32 (p : Prefixes) (mod : BitVec 2) (dr : BitVec 3) (rm : BitVec 3) (s : State) : Outcome :=
  moveToDr .b32 p (Instr.movDrR32 p mod dr rm).size dr rm s

/-- Row 44, MOV DR0 to DR7, r64 (R275). -/
def execMovDrR64 (p : Prefixes) (mod : BitVec 2) (dr : BitVec 3) (rm : BitVec 3) (s : State) : Outcome :=
  moveToDr .b64 p (Instr.movDrR64 p mod dr rm).size dr rm s

end Sys2Proof.Machine
end

