-- ==== Sys2Proof/Machine/MovGeneral.lean ====
section
/-! DEFINITION. Rows 1 to 10 of R124: moves between a general register and an r/m operand (40_mov_general.md, classes MR and RM). -/

namespace Sys2Proof.Machine

/-- Row 1, MOV r/m8, r8 (R150). -/
def execMovRm8R8 (p : Prefixes) (reg : BitVec 3) (rm : Rm) (s : State) : Outcome :=
  moveToRm .b8 p (Instr.movRm8R8 p reg rm).size reg rm s

/-- Row 2, MOV r/m8, r8 under REX (R151). -/
def execMovRm8R8Rex (p : Prefixes) (reg : BitVec 3) (rm : Rm) (s : State) : Outcome :=
  moveToRm .b8 p (Instr.movRm8R8Rex p reg rm).size reg rm s

/-- Row 3, MOV r/m16, r16 (R152). -/
def execMovRm16R16 (p : Prefixes) (reg : BitVec 3) (rm : Rm) (s : State) : Outcome :=
  moveToRm .b16 p (Instr.movRm16R16 p reg rm).size reg rm s

/-- Row 4, MOV r/m32, r32 (R153). -/
def execMovRm32R32 (p : Prefixes) (reg : BitVec 3) (rm : Rm) (s : State) : Outcome :=
  moveToRm .b32 p (Instr.movRm32R32 p reg rm).size reg rm s

/-- Row 5, MOV r/m64, r64 (R154). -/
def execMovRm64R64 (p : Prefixes) (reg : BitVec 3) (rm : Rm) (s : State) : Outcome :=
  moveToRm .b64 p (Instr.movRm64R64 p reg rm).size reg rm s

/-- Row 6, MOV r8, r/m8 (R155). -/
def execMovR8Rm8 (p : Prefixes) (reg : BitVec 3) (rm : Rm) (s : State) : Outcome :=
  moveFromRm .b8 p (Instr.movR8Rm8 p reg rm).size reg rm s

/-- Row 7, MOV r8, r/m8 under REX (R156). -/
def execMovR8Rm8Rex (p : Prefixes) (reg : BitVec 3) (rm : Rm) (s : State) : Outcome :=
  moveFromRm .b8 p (Instr.movR8Rm8Rex p reg rm).size reg rm s

/-- Row 8, MOV r16, r/m16 (R157). -/
def execMovR16Rm16 (p : Prefixes) (reg : BitVec 3) (rm : Rm) (s : State) : Outcome :=
  moveFromRm .b16 p (Instr.movR16Rm16 p reg rm).size reg rm s

/-- Row 9, MOV r32, r/m32 (R158). -/
def execMovR32Rm32 (p : Prefixes) (reg : BitVec 3) (rm : Rm) (s : State) : Outcome :=
  moveFromRm .b32 p (Instr.movR32Rm32 p reg rm).size reg rm s

/-- Row 10, MOV r64, r/m64 (R159). -/
def execMovR64Rm64 (p : Prefixes) (reg : BitVec 3) (rm : Rm) (s : State) : Outcome :=
  moveFromRm .b64 p (Instr.movR64Rm64 p reg rm).size reg rm s

end Sys2Proof.Machine
end

