-- ==== Sys2Proof/Machine/MovImmediate.lean ====
section
/-! DEFINITION. Rows 25 to 34 of R124: moves of an immediate (40_mov_general.md, classes OI and MI). -/

namespace Sys2Proof.Machine

/-- Row 25, MOV r8, imm8 (R176). -/
def execMovR8Imm8 (p : Prefixes) (r : BitVec 3) (imm : BitVec 8) (s : State) : Outcome :=
  moveImmToReg .b8 p (Instr.movR8Imm8 p r imm).size r (imm.setWidth 64) s

/-- Row 26, MOV r8, imm8 under REX (R177). -/
def execMovR8Imm8Rex (p : Prefixes) (r : BitVec 3) (imm : BitVec 8) (s : State) : Outcome :=
  moveImmToReg .b8 p (Instr.movR8Imm8Rex p r imm).size r (imm.setWidth 64) s

/-- Row 27, MOV r16, imm16 (R178). -/
def execMovR16Imm16 (p : Prefixes) (r : BitVec 3) (imm : BitVec 16) (s : State) : Outcome :=
  moveImmToReg .b16 p (Instr.movR16Imm16 p r imm).size r (imm.setWidth 64) s

/-- Row 28, MOV r32, imm32 (R179). -/
def execMovR32Imm32 (p : Prefixes) (r : BitVec 3) (imm : BitVec 32) (s : State) : Outcome :=
  moveImmToReg .b32 p (Instr.movR32Imm32 p r imm).size r (imm.setWidth 64) s

/-- Row 29, MOV r64, imm64 (R180). -/
def execMovR64Imm64 (p : Prefixes) (r : BitVec 3) (imm : BitVec 64) (s : State) : Outcome :=
  moveImmToReg .b64 p (Instr.movR64Imm64 p r imm).size r imm s

/-- Row 30, MOV r/m8, imm8 (R181). -/
def execMovRm8Imm8 (p : Prefixes) (rm : Rm) (imm : BitVec 8) (s : State) : Outcome :=
  moveImmToRm .b8 p (Instr.movRm8Imm8 p rm imm).size rm (imm.setWidth 64) s

/-- Row 31, MOV r/m8, imm8 under REX (R182). -/
def execMovRm8Imm8Rex (p : Prefixes) (rm : Rm) (imm : BitVec 8) (s : State) : Outcome :=
  moveImmToRm .b8 p (Instr.movRm8Imm8Rex p rm imm).size rm (imm.setWidth 64) s

/-- Row 32, MOV r/m16, imm16 (R183). -/
def execMovRm16Imm16 (p : Prefixes) (rm : Rm) (imm : BitVec 16) (s : State) : Outcome :=
  moveImmToRm .b16 p (Instr.movRm16Imm16 p rm imm).size rm (imm.setWidth 64) s

/-- Row 33, MOV r/m32, imm32 (R184). -/
def execMovRm32Imm32 (p : Prefixes) (rm : Rm) (imm : BitVec 32) (s : State) : Outcome :=
  moveImmToRm .b32 p (Instr.movRm32Imm32 p rm imm).size rm (imm.setWidth 64) s

/-- Row 34, MOV r/m64, imm32, the immediate sign-extended (R185, C1). -/
def execMovRm64Imm32 (p : Prefixes) (rm : Rm) (imm : BitVec 32) (s : State) : Outcome :=
  moveImmToRm .b64 p (Instr.movRm64Imm32 p rm imm).size rm (imm.signExtend 64) s

end Sys2Proof.Machine
end

