-- ==== Sys2Proof/Machine/MovOffset.lean ====
section
/-! DEFINITION. Rows 15 to 24 of R124: moves between the accumulator and a direct offset (40_mov_general.md, classes FD and TD). -/

namespace Sys2Proof.Machine

/-- Row 15, MOV AL, moffs8 (R166). -/
def execMovAlMoffs8 (p : Prefixes) (off : Moffs) (s : State) : Outcome :=
  moveFromMoffs .b8 p (Instr.movAlMoffs8 p off).size off s

/-- Row 16, MOV AL, moffs8 under REX.W (R167). -/
def execMovAlMoffs8RexW (p : Prefixes) (off : Moffs) (s : State) : Outcome :=
  moveFromMoffs .b8 p (Instr.movAlMoffs8RexW p off).size off s

/-- Row 17, MOV AX, moffs16 (R168). -/
def execMovAxMoffs16 (p : Prefixes) (off : Moffs) (s : State) : Outcome :=
  moveFromMoffs .b16 p (Instr.movAxMoffs16 p off).size off s

/-- Row 18, MOV EAX, moffs32 (R169). -/
def execMovEaxMoffs32 (p : Prefixes) (off : Moffs) (s : State) : Outcome :=
  moveFromMoffs .b32 p (Instr.movEaxMoffs32 p off).size off s

/-- Row 19, MOV RAX, moffs64 (R170). -/
def execMovRaxMoffs64 (p : Prefixes) (off : Moffs) (s : State) : Outcome :=
  moveFromMoffs .b64 p (Instr.movRaxMoffs64 p off).size off s

/-- Row 20, MOV moffs8, AL (R171). -/
def execMovMoffs8Al (p : Prefixes) (off : Moffs) (s : State) : Outcome :=
  moveToMoffs .b8 p (Instr.movMoffs8Al p off).size off s

/-- Row 21, MOV moffs8, AL under REX.W (R172). -/
def execMovMoffs8AlRexW (p : Prefixes) (off : Moffs) (s : State) : Outcome :=
  moveToMoffs .b8 p (Instr.movMoffs8AlRexW p off).size off s

/-- Row 22, MOV moffs16, AX (R173). -/
def execMovMoffs16Ax (p : Prefixes) (off : Moffs) (s : State) : Outcome :=
  moveToMoffs .b16 p (Instr.movMoffs16Ax p off).size off s

/-- Row 23, MOV moffs32, EAX (R174). -/
def execMovMoffs32Eax (p : Prefixes) (off : Moffs) (s : State) : Outcome :=
  moveToMoffs .b32 p (Instr.movMoffs32Eax p off).size off s

/-- Row 24, MOV moffs64, RAX (R175). -/
def execMovMoffs64Rax (p : Prefixes) (off : Moffs) (s : State) : Outcome :=
  moveToMoffs .b64 p (Instr.movMoffs64Rax p off).size off s

end Sys2Proof.Machine
end

