-- ==== Sys2Proof/Machine/Segment.lean ====
section
/-! DEFINITION. The segment load (41_mov_segment.md R209 to R216), the oracle DescFetch (00_scope.md R12(a)) and the
interrupt inhibition that a load of SS starts (R218). -/

namespace Sys2Proof

/-- What a successful load writes into the hidden part (R214): the descriptor, its 32-bit base zero-extended. -/
def Desc.loaded (d : Desc) : Desc := { d with base := Width.b32.trunc d.base }

end Sys2Proof

namespace Sys2Proof.Machine

/-- The segment register a ModRM.reg value names (R110, R200): 0 ES, 1 CS, 2 SS, 3 DS, 4 FS, 5 GS; 6 and 7 name none. -/
def sregOf (n : BitVec 3) : Option Sreg :=
  match n.toNat with
  | 0 => some .es
  | 1 => some .cs
  | 2 => some .ss
  | 3 => some .ds
  | 4 => some .fs
  | 5 => some .gs
  | _ => none

/-- DescFetch (R12(a), R217, D6): what the table says of a selector, and what is assumed elsewhere (log 5). -/
def State.descFetch (s : State) (sel : BitVec 16) : DescResult :=
  match s.par.descTable.lookup sel with
  | some r => r
  | none =>
    match s.par.elsewhere with
    | .plain => .outsideLimit
    | .free => Config.descFetch sel

/-- The RPL of a selector, bits 1:0 (R209). -/
def rpl (sel : BitVec 16) : BitVec 2 := sel.extractLsb' 0 2

/-- The error code "selector": the selector with bits 1:0 cleared (R209, R215). -/
def selCode (sel : BitVec 16) : BitVec 16 := sel &&& 0xFFFC

/-- The exception #GP(selector) (R210, R212). -/
def gpSel (sel : BitVec 16) : Stop := .exception (.gp (some (selCode sel)))

/-- PrivFail (R212): the privilege test of a load of DS, ES, FS or GS, as DATA_SEG_PRIV_CHECK selects (R10). -/
def privFail (check : PrivCheck) (rpl cpl dpl : BitVec 2) : Bool :=
  match check with
  | .both => decide (dpl < rpl) && decide (dpl < cpl)
  | .either => decide (dpl < rpl) || decide (dpl < cpl)

/-- A NULL selector loaded: the selector is kept whole and the hidden part is unspecified (R211, R213; log 13). -/
def State.loadNull (s : State) (r : Sreg) (sel : BitVec 16) : State :=
  { s.setSreg r { sel := sel, hidden := Config.drawDesc s.draws } with draws := s.draws + 1 }

/-- The checks of a load of SS with a descriptor, in the order of the listing (R210). -/
def State.loadSSDesc (s : State) (sel : BitVec 16) (d : Desc) : Except Stop State :=
  if rpl sel ≠ s.cpl ∨ ¬ (d.kind = .data ∧ d.writable = true) ∨ d.dpl ≠ s.cpl then .error (gpSel sel)
  else if d.present = false then .error (.exception (.ss (some (selCode sel))))
  else .ok (s.setSreg .ss { sel := sel, hidden := d.loaded })

/-- LoadSS (R210, R211): a NULL selector is refused, but in LONG64 only at privilege level 3 or with another RPL. -/
def State.loadSS (s : State) (sel : BitVec 16) : Except Stop State :=
  if isNull sel then
    if s.mode = .long64 ∧ s.cpl ≠ 3 ∧ rpl sel = s.cpl then .ok (s.loadNull .ss sel)
    else .error (.exception (.gp (some 0)))
  else
    match s.descFetch sel with
    | .outsideLimit => .error (gpSel sel)
    | .nonCanonicalTable => .error (gpSel sel)
    | .desc d => s.loadSSDesc sel d

/-- The checks of a load of DS, ES, FS or GS with a descriptor, in the order of the listing (R212). -/
def State.loadDataDesc (s : State) (r : Sreg) (sel : BitVec 16) (d : Desc) : Except Stop State :=
  if ¬ (d.kind = .data ∨ (d.kind = .code ∧ d.readable = true)) then .error (gpSel sel)
  else if (d.kind = .data ∨ (d.kind = .code ∧ d.conforming = false))
      ∧ privFail s.par.dataSegPrivCheck (rpl sel) s.cpl d.dpl = true then .error (gpSel sel)
  else if d.present = false then .error (.exception (.np (selCode sel)))
  else .ok (s.setSreg r { sel := sel, hidden := d.loaded })

/-- LoadData and LoadDataNull (R212, R213), `r` one of DS, ES, FS, GS. -/
def State.loadData (s : State) (r : Sreg) (sel : BitVec 16) : Except Stop State :=
  if isNull sel then .ok (s.loadNull r sel)
  else
    match s.descFetch sel with
    | .outsideLimit => .error (gpSel sel)
    | .nonCanonicalTable => .error (gpSel sel)
    | .desc d => s.loadDataDesc r sel d

/-- LoadSegReal (R216, D28): any selector is accepted; its base is 16 times it; limit and attributes are unchanged. -/
def State.loadSegReal (s : State) (r : Sreg) (sel : BitVec 16) : State :=
  s.setSreg r { sel := sel, hidden := { (s.sreg r).hidden with base := sel.setWidth 64 * 16 } }

/-- LoadSeg (R209). -/
def State.loadSeg (s : State) (r : Sreg) (sel : BitVec 16) : Except Stop State :=
  match s.mode with
  | .real | .v86 => .ok (s.loadSegReal r sel)
  | .prot | .compat | .long64 => if r = .ss then s.loadSS sel else s.loadData r sel

/-- Completing a load of a segment register (R206): as any instruction, but a load of SS starts the interrupt inhibition,
and one that stands under it already leaves it a free choice (R218). -/
def State.completeLoad (s : State) (r : Sreg) (len : Nat) : State :=
  if r = .ss then
    if s.intShadow then { s.complete len with intShadow := Config.drawBit s.draws, draws := s.draws + 1 }
    else { s.complete len with intShadow := true }
  else s.complete len

/-- MOV Sreg, r/m (R206, R207): #UD under LOCK, for CS and for a number that names no segment register (R220); then the
selector is read, the segment loaded and the instruction completed. The width is the register operand's; a memory operand
is two bytes (R201). -/
def moveToSreg (p : Prefixes) (len : Nat) (sreg : BitVec 3) (rm : Rm) (s : State) : Outcome :=
  if p.lock then raise .ud s
  else
    match sregOf sreg with
    | none => raise .ud s
    | some .cs => raise .ud s
    | some r =>
      settle s
        (match s.readRm p len .b16 rm with
          | .error e => .error e
          | .ok v => (s.loadSeg r (v.setWidth 16)).map fun t => t.completeLoad r len)

/-- Whether bits 31:16 of a 32-bit register written from a segment register are a free value (R204): on the processor
families that do not fill them with zeros, outside LONG64 (log 38). -/
def State.hi16Free (s : State) : Bool := decide (s.mode ≠ .long64) && !s.par.procFamily.zeroHi16

/-- A selector written to a 32-bit register (R203, R204). -/
def State.selToReg32 (s : State) (i : BitVec 4) (rex : Bool) (sel : BitVec 16) : State :=
  if s.hi16Free then
    { s.regWrite .b32 i rex ((Config.draw16 s.draws ++ sel).setWidth 64) with draws := s.draws + 1 }
  else s.regWrite .b32 i rex (sel.setWidth 64)

/-- A selector written to the r/m operand: a register at the operand size, or two bytes of memory (R201, R203, R205). -/
def State.writeSelector (s : State) (p : Prefixes) (len : Nat) (rm : Rm) (sel : BitVec 16) : Except Stop State :=
  match rm with
  | .mem _ => s.writeRm p len .b16 rm (sel.setWidth 64)
  | .reg g =>
    match opSize s.ctx p with
    | .b32 => .ok (s.selToReg32 (p.rmNum g) p.hasRex sel)
    | w => s.writeRm p len w rm (sel.setWidth 64)

/-- MOV r/m, Sreg (R203, R205): #UD under LOCK and for a number that names no segment register (R220), then the
selector is written. -/
def moveFromSreg (p : Prefixes) (len : Nat) (sreg : BitVec 3) (rm : Rm) (s : State) : Outcome :=
  match sregOf sreg with
  | none => raise .ud s
  | some r => moveStep p len s (s.writeSelector p len rm (s.sreg r).sel)

end Sys2Proof.Machine
end

