-- ==== Sys2Proof/Machine/MovSegment.lean ====
section
/-! DEFINITION. Rows 11 to 14 of R124: moves to and from segment registers (41_mov_segment.md). -/

namespace Sys2Proof.Machine

/-- Row 11, MOV r/m16, Sreg (R203, R204). -/
def execMovRm16Sreg (p : Prefixes) (sreg : BitVec 3) (rm : Rm) (s : State) : Outcome :=
  moveFromSreg p (Instr.movRm16Sreg p sreg rm).size sreg rm s

/-- Row 12, MOV r/m64, Sreg (R205). -/
def execMovRm64Sreg (p : Prefixes) (sreg : BitVec 3) (rm : Rm) (s : State) : Outcome :=
  moveFromSreg p (Instr.movRm64Sreg p sreg rm).size sreg rm s

/-- Row 13, MOV Sreg, r/m16 (R206). -/
def execMovSregRm16 (p : Prefixes) (sreg : BitVec 3) (rm : Rm) (s : State) : Outcome :=
  moveToSreg p (Instr.movSregRm16 p sreg rm).size sreg rm s

/-- Row 14, MOV Sreg, r/m64 (R207). -/
def execMovSregRm64 (p : Prefixes) (sreg : BitVec 3) (rm : Rm) (s : State) : Outcome :=
  moveToSreg p (Instr.movSregRm64 p sreg rm).size sreg rm s

end Sys2Proof.Machine
end

