-- ==== Sys2Proof/Machine/Dispatch.lean ====
section
/-! DEFINITION. One arm per constructor of Instr, in the order of R124: each a direct call of its meaning. -/

namespace Sys2Proof.Machine

def exec (i : Instr) (s : State) : Host.Outcome State Fault Refusal :=
  match i with
  | .movRm8R8 p reg rm => Sys2Proof.Machine.execMovRm8R8 p reg rm s
  | .movRm8R8Rex p reg rm => Sys2Proof.Machine.execMovRm8R8Rex p reg rm s
  | .movRm16R16 p reg rm => Sys2Proof.Machine.execMovRm16R16 p reg rm s
  | .movRm32R32 p reg rm => Sys2Proof.Machine.execMovRm32R32 p reg rm s
  | .movRm64R64 p reg rm => Sys2Proof.Machine.execMovRm64R64 p reg rm s
  | .movR8Rm8 p reg rm => Sys2Proof.Machine.execMovR8Rm8 p reg rm s
  | .movR8Rm8Rex p reg rm => Sys2Proof.Machine.execMovR8Rm8Rex p reg rm s
  | .movR16Rm16 p reg rm => Sys2Proof.Machine.execMovR16Rm16 p reg rm s
  | .movR32Rm32 p reg rm => Sys2Proof.Machine.execMovR32Rm32 p reg rm s
  | .movR64Rm64 p reg rm => Sys2Proof.Machine.execMovR64Rm64 p reg rm s
  | .movRm16Sreg p sreg rm => Sys2Proof.Machine.execMovRm16Sreg p sreg rm s
  | .movRm64Sreg p sreg rm => Sys2Proof.Machine.execMovRm64Sreg p sreg rm s
  | .movSregRm16 p sreg rm => Sys2Proof.Machine.execMovSregRm16 p sreg rm s
  | .movSregRm64 p sreg rm => Sys2Proof.Machine.execMovSregRm64 p sreg rm s
  | .movAlMoffs8 p off => Sys2Proof.Machine.execMovAlMoffs8 p off s
  | .movAlMoffs8RexW p off => Sys2Proof.Machine.execMovAlMoffs8RexW p off s
  | .movAxMoffs16 p off => Sys2Proof.Machine.execMovAxMoffs16 p off s
  | .movEaxMoffs32 p off => Sys2Proof.Machine.execMovEaxMoffs32 p off s
  | .movRaxMoffs64 p off => Sys2Proof.Machine.execMovRaxMoffs64 p off s
  | .movMoffs8Al p off => Sys2Proof.Machine.execMovMoffs8Al p off s
  | .movMoffs8AlRexW p off => Sys2Proof.Machine.execMovMoffs8AlRexW p off s
  | .movMoffs16Ax p off => Sys2Proof.Machine.execMovMoffs16Ax p off s
  | .movMoffs32Eax p off => Sys2Proof.Machine.execMovMoffs32Eax p off s
  | .movMoffs64Rax p off => Sys2Proof.Machine.execMovMoffs64Rax p off s
  | .movR8Imm8 p r imm => Sys2Proof.Machine.execMovR8Imm8 p r imm s
  | .movR8Imm8Rex p r imm => Sys2Proof.Machine.execMovR8Imm8Rex p r imm s
  | .movR16Imm16 p r imm => Sys2Proof.Machine.execMovR16Imm16 p r imm s
  | .movR32Imm32 p r imm => Sys2Proof.Machine.execMovR32Imm32 p r imm s
  | .movR64Imm64 p r imm => Sys2Proof.Machine.execMovR64Imm64 p r imm s
  | .movRm8Imm8 p rm imm => Sys2Proof.Machine.execMovRm8Imm8 p rm imm s
  | .movRm8Imm8Rex p rm imm => Sys2Proof.Machine.execMovRm8Imm8Rex p rm imm s
  | .movRm16Imm16 p rm imm => Sys2Proof.Machine.execMovRm16Imm16 p rm imm s
  | .movRm32Imm32 p rm imm => Sys2Proof.Machine.execMovRm32Imm32 p rm imm s
  | .movRm64Imm32 p rm imm => Sys2Proof.Machine.execMovRm64Imm32 p rm imm s
  | .movR32Cr p mod cr rm => Sys2Proof.Machine.execMovR32Cr p mod cr rm s
  | .movR64Cr p mod cr rm => Sys2Proof.Machine.execMovR64Cr p mod cr rm s
  | .movR64Cr8 p mod rm => Sys2Proof.Machine.execMovR64Cr8 p mod rm s
  | .movCrR32 p mod cr rm => Sys2Proof.Machine.execMovCrR32 p mod cr rm s
  | .movCrR64 p mod cr rm => Sys2Proof.Machine.execMovCrR64 p mod cr rm s
  | .movCr8R64 p mod rm => Sys2Proof.Machine.execMovCr8R64 p mod rm s
  | .movR32Dr p mod dr rm => Sys2Proof.Machine.execMovR32Dr p mod dr rm s
  | .movR64Dr p mod dr rm => Sys2Proof.Machine.execMovR64Dr p mod dr rm s
  | .movDrR32 p mod dr rm => Sys2Proof.Machine.execMovDrR32 p mod dr rm s
  | .movDrR64 p mod dr rm => Sys2Proof.Machine.execMovDrR64 p mod dr rm s

end Sys2Proof.Machine
end

