-- ==== Sys2Proof/Machine/Fetch.lean ====
section
/-! DEFINITION. Fetching an instruction from the program text (70_reset_and_hazards.md R342, 20_memory.md R79) and the two
things that can happen at an instruction boundary instead of an instruction: the normal end of a run (R345) and an external
interrupt (60_exceptions.md R318). -/

namespace Sys2Proof.Machine

/-- Whether pc is the offset just past the last byte of the program text, the normal end of a run (R345(a), D16; log 10). -/
def State.atEnd (s : State) : Bool := decide (s.textIndex s.pc = s.text.bytes.length)

/-- Whether the environment offers an external interrupt at this boundary (R315, D17; log 11). -/
def State.offered (s : State) : Bool := s.offers.headD false

/-- Whether an external interrupt is taken at this boundary: one is offered and int_shadow is 0 (R318). -/
def State.interruptTaken (s : State) : Bool := s.offered && !s.intShadow

/-- The bytes of the text from pc on; none when pc lies outside the text (R79, R342, D22). -/
def State.fetch (s : State) : Option (List Byte) :=
  if s.textIndex s.pc < s.text.bytes.length then some (s.text.bytes.drop (s.textIndex s.pc)) else none

/-- The state in which the instruction at a boundary starts: the environment's offer of this boundary is gone (log 11). -/
def State.begin (s : State) : State := { s with offers := s.offers.tail }

/-- A program text that lies at pc, of one table word (log 8). -/
def State.placeWord (s : State) (nbits w : Nat) : State :=
  { s with text := { start := s.pc, bytes := tableBytes s.ctx nbits w } }

end Sys2Proof.Machine
end

