-- ==== Sys2Proof/Machine/Step.lean ====
section
/-! DEFINITION. One step of the machine (60_exceptions.md R300, R318; 70_reset_and_hazards.md R345): the end of the run, an
external interrupt, or the instruction at pc. -/

namespace Sys2Proof.Machine

/-- One step (R300): at the end of the text the run is over (R345(a)); otherwise an interrupt that the environment offers is
taken unless int_shadow is 1 (R318); otherwise the instruction at pc is fetched from the text, decoded and executed. An
offered interrupt is taken also where pc lies outside the text, before that is refused: DESIGN CHOICE, log 43. -/
def step (s : State) : Host.Outcome State Fault Refusal :=
  if s.atEnd then .refused .endOfText
  else if s.interruptTaken then .fault (.interrupted s)
  else
    match s.fetch with
    | none => .refused .pcOutsideText
    | some bytes =>
      match decode s.ctx bytes with
      | .error r => .refused (.undecoded r)
      | .ok (i, _) => exec i s.begin

/-- A table word placed where the next step fetches: the program text becomes its bytes, at pc (R342, log 8). -/
def State.withFetchWord (s : State) (nbits w : Nat) : State := s.placeWord nbits w

end Sys2Proof.Machine
end

