-- ==== Sys2Proof/Safety.lean ====
section
/-! DEFINITION. What a register write and a store leave behind, bit by bit and byte by byte; what a legal state is, when a state may be launched (10_state.md R57, 70_reset_and_hazards.md R340), and how
a run ends (R345), in the terms the statements use. Every condition is a check that evaluates. -/

namespace Sys2Proof

/-- The bits of an operand of a width (R80, R112). -/
def Width.bits : Width → Nat
  | .b8 => 8
  | .b16 => 16
  | .b32 => 32
  | .b64 => 64

/-- Where a register operand lies (R22, R23): its register, and its lowest bit there, which is 8 for AH, CH, DH and BH
(numbers 4 to 7 at 8 bits without a REX prefix) and 0 otherwise. -/
def operandAt (w : Width) (n : BitVec 4) (rex : Bool) : BitVec 4 × Nat :=
  if w = .b8 ∧ rex = false ∧ 4 ≤ n.toNat ∧ n.toNat ≤ 7 then (n - 4, 8) else (n, 0)

end Sys2Proof

namespace Sys2Proof.Machine

/-! ## Operands -/

/-- A register operand, moved down to bit 0 (R24); only the bits of its width are the operand's. -/
def State.operand (s : State) (w : Width) (n : BitVec 4) (rex : Bool) : Word :=
  s.reg (operandAt w n rex).1 >>> (operandAt w n rex).2

/-- What RegWrite leaves (R25), bit by bit and for all sixteen registers: the operand's bits are the value's; in LONG64 a
32-bit write clears the other bits of its register; every other bit of every register is as before. -/
def registerWritten (s t : State) (w : Width) (n : BitVec 4) (rex : Bool) (v : Word) : Prop :=
  ∀ (j : BitVec 4) (k : Nat), k < 64 →
    (t.reg j).getLsbD k =
      if j = (operandAt w n rex).1 then
        if (operandAt w n rex).2 ≤ k ∧ k < (operandAt w n rex).2 + w.bits then v.getLsbD (k - (operandAt w n rex).2)
        else if w = .b32 ∧ s.mode = .long64 then false
        else (s.reg j).getLsbD k
      else (s.reg j).getLsbD k

/-- Every byte of memory reads as before. -/
def sameMemory (s t : State) : Prop := ∀ a : Nat, t.mem.read a = s.mem.read a

/-- Byte k of a value (R75). -/
def byteOf (v : Word) (k : Nat) : Byte := v.extractLsb' (8 * k) 8

/-- What MemWrite leaves (R75): byte k of the value at the address of byte k, and every other byte of memory as before. -/
def bytesWritten (s t : State) (phys : Word) (n : Nat) (v : Word) : Prop :=
  (∀ k, k < n → t.mem.read (s.byteAddr phys k) = byteOf v k)
    ∧ ∀ a : Nat, (∀ k, k < n → a ≠ s.byteAddr phys k) → t.mem.read a = s.mem.read a

/-- What MemRead answers (R75): byte k of the value is the byte at the address of byte k. -/
def bytesRead (s : State) (phys : Word) (n : Nat) (v : Word) : Prop :=
  ∀ k, k < n → byteOf v k = s.mem.read (s.byteAddr phys k)

/-- What the selector of a MOV to a segment register is read from (R206): the low 16 bits of a register, or two bytes of
memory behind the checks of a data access. -/
def selectorSource (s : State) (p : Prefixes) (len : Nat) (rm : Rm) (sel : BitVec 16) : Prop :=
  match rm with
  | .reg g => sel = (s.reg (p.rmNum g)).setWidth 16
  | .mem m =>
    ∃ phys, s.access (s.segOf p (m.defaultSeg p)) (s.memOffset p len m) 2 .read = .ok phys
      ∧ bytesRead s phys 2 (sel.setWidth 64)

/-- The exception `e`, raised by an instruction that started in `s` (R300, R311): the state is as before the instruction
but for int_shadow, which is 0. -/
def raises (s : State) (e : Exception) : Outcome := .fault (.exception e { s with intShadow := false })

/-! ## Legal states -/

/-- The constraints on the reserved-bit masks (00_scope.md R9): bit 63 of CR3_RSVD is 1; PE, ET, NW, CD and PG are not in
CR0_RSVD; of DE, PSE, PAE and PCIDE, those whose feature the processor has are not in CR4_RSVD. -/
def paramsOk (q : Params) : Bool :=
  q.cr3Rsvd.getLsbD 63
    && !(cr0PE q.cr0Rsvd || cr0ET q.cr0Rsvd || cr0NW q.cr0Rsvd || cr0CD q.cr0Rsvd || cr0PG q.cr0Rsvd)
    && !(q.hasDe && cr4DE q.cr4Rsvd) && !(q.hasPse && cr4PSE q.cr4Rsvd)
    && !(q.hasPae && cr4PAE q.cr4Rsvd) && !(q.hasPcide && cr4PCIDE q.cr4Rsvd)

/-- The mode constraints (R52, R57(a)): REAL exactly when PE = 0; PG, PE and PAE are 1 in COMPAT and LONG64, which an
EARLIER_IA32 processor does not have (R6). -/
def State.modeOk (s : State) : Bool :=
  (decide (s.mode = .real) == !cr0PE s.cr0)
    && (!s.ia32e
      || (cr0PG s.cr0 && cr0PE s.cr0 && cr4PAE s.cr4 && decide (s.par.procFamily ≠ .earlierIA32)))

/-- The privilege level in each mode: 0 in REAL, 3 in V86 (R37, R57(b)), bits 1:0 of the selector of CS elsewhere (R36). -/
def State.cplOk (s : State) : Bool :=
  match s.mode with
  | .real => decide (s.cpl = 0)
  | .v86 => decide (s.cpl = 3)
  | .prot | .compat | .long64 => decide (s.cpl = s.seg.cs.sel.extractLsb' 0 2)

/-- Bits 63:32 of DR6 and DR7 and bit 63 of CR3 are 0 (R57(e)). -/
def State.highBitsOk (s : State) : Bool :=
  decide (s.dr6.extractLsb' 32 32 = 0) && decide (s.dr7.extractLsb' 32 32 = 0) && !s.cr3.getLsbD 63

/-- CR0 is no invalid combination, and ET is 1 on P4_XEON_P6 (R43, R57(f)). -/
def State.cr0Ok (s : State) : Bool :=
  !cr0Invalid s.cr0 && (decide (s.par.procFamily ≠ .p4XeonP6) || cr0ET s.cr0)

/-- Reserved bits of CR0, CR3, CR4 and CR8 are 0 (R57(g)), and CR4 is 0 on a processor without it (U9). -/
def State.reservedOk (s : State) : Bool :=
  decide (s.cr0 &&& s.par.cr0Rsvd = 0) && decide (s.cr3 &&& s.par.cr3Rsvd = 0)
    && decide (s.cr4 &&& s.par.cr4Rsvd = 0) && decide (s.cr8 &&& s.par.cr8Rsvd = 0)
    && (!s.noCr4 || decide (s.cr4 = 0))

/-- A legal state: R57(a), (b), (e), (f), (g), the constraints of R6 on the mode and of R9 on the masks, and the privilege
level of R36. R57(c), (h) and (i) speak of marks and registers that are not state in the spec. -/
def State.legal (s : State) : Bool :=
  paramsOk s.par && s.modeOk && s.cplOk && s.highBitsOk && s.cr0Ok && s.reservedOk

/-- An admitted launch state (R57, R340): legal, and int_shadow is 0 (R57(d)). -/
def State.launch (s : State) : Bool := s.legal && !s.intShadow

/-- How a run can end (R345): normally, at the end of its text. Every other outcome that is no next state ends it too, with
that outcome. -/
def endsNormally (o : Outcome) : Bool :=
  match o with
  | .refused .endOfText => true
  | _ => false

end Sys2Proof.Machine
end

