-- ==== Sys2Proof/Certificates/Slice0/Obligations.lean ====
section
/-! DEFINITION. The statements for the provers. In each statement of a next state, the record update names every field that
may change: all others are as before. -/

section

open Sys2Proof Sys2Proof.Machine

/-! ## Encoding -/

/-- Every instruction that bytes can hold under a mode and code size is what the decoder reads from its bytes, whatever
follows them (30_encoding.md R100, R101, R124, R133). -/
def Obligations.DecodeEncode : Prop :=
  ∀ (c : Ctx) (i : Instr) (rest : List Byte), i.wf c = true → decode c (encode i ++ rest) = .ok (i, rest)

/-- The decoder loses no bit: what it reads encodes to the bytes it read, and is an instruction that bytes can hold (R100,
R101, R124, R125). -/
def Obligations.EncodeDecode : Prop :=
  ∀ (c : Ctx) (bs : List Byte) (i : Instr) (rest : List Byte),
    decode c bs = .ok (i, rest) → encode i ++ rest = bs ∧ i.wf c = true

/-- A sequence that would be an instruction of more than 15 bytes is refused (R101; D31). -/
def Obligations.TooLongRefused : Prop :=
  ∀ (c : Ctx) (i : Instr) (rest : List Byte),
    i.rowOk c = true → 15 < i.size → decode c (encode i ++ rest) = .error .tooLong

/-- What the spec refuses. Behind any prefixes it admits: C6 and C7 with a reg field other than 000 (R123), the bytes 40H to
4FH outside LONG64 (R109), every other byte that starts no row of the map, and 0F before a byte that makes no row (R130).
Among the prefix bytes: F2 and F3, two 66H, two 67H, and more than four legacy prefixes (R107, D20). -/
def Obligations.OutsideTheMap : Prop :=
  (∀ (c : Ctx) (p : Prefixes) (b : Byte) (mod : BitVec 2) (reg rm : BitVec 3) (bs : List Byte), p.wf c = true →
      b = 0xC6 ∨ b = 0xC7 → reg ≠ 0 → ∃ e, decode c (p.bytes ++ b :: fieldsByte mod reg rm :: bs) = .error e)
    ∧ (∀ (c : Ctx) (p : Prefixes) (r : Rex) (bs : List Byte), p.wf c = true → c.mode ≠ .long64 →
      decode c (p.bytes ++ r.byte :: bs) = .error (.notMov r.byte))
    ∧ (∀ (c : Ctx) (p : Prefixes) (b : Byte) (bs : List Byte), p.wf c = true →
      b ∉ [(0x26 : Byte), 0x2E, 0x36, 0x3E, 0x64, 0x65, 0x66, 0x67, 0xF0, 0xF2, 0xF3] →
      ¬ (c.mode = .long64 ∧ 0x40 ≤ b.toNat ∧ b.toNat ≤ 0x4F) →
      b ∉ [(0x0F : Byte), 0x88, 0x89, 0x8A, 0x8B, 0x8C, 0x8E, 0xA0, 0xA1, 0xA2, 0xA3, 0xC6, 0xC7] →
      ¬ (0xB0 ≤ b.toNat ∧ b.toNat ≤ 0xBF) →
      decode c (p.bytes ++ b :: bs) = .error (.notMov b))
    ∧ (∀ (c : Ctx) (p : Prefixes) (b : Byte) (bs : List Byte), p.wf c = true →
      b ∉ [(0x20 : Byte), 0x21, 0x22, 0x23] → decode c (p.bytes ++ 0x0F :: b :: bs) = .error (.notMovTwoByte b))
    ∧ (∀ (c : Ctx) (q : List Prefix) (b : Byte) (bs : List Byte), c.mode = .long64 ∨ q.all Prefix.isLegacy = true →
      b = 0xF2 ∨ b = 0xF3 → decode c (q.map Prefix.byte ++ b :: bs) = .error .repPrefix)
    ∧ ∀ (c : Ctx) (q : List Prefix) (bs : List Byte), c.mode = .long64 ∨ q.all Prefix.isLegacy = true →
      2 ≤ q.count .opSize ∨ 2 ≤ q.count .addrSize ∨ 5 ≤ q.countP Prefix.isLegacy →
      ∃ e, decode c (q.map Prefix.byte ++ bs) = .error e

/-- A word of each family, written out from the spec's encoding of it, is read as the instruction it stands for (the
examples of R150, R154, R158, R169, R172, R180, R184, R203, R207, R237, R273). Sanity. -/
def Obligations.DecodedWords : Prop :=
  let c32 : Ctx := { mode := .prot, csD := .bits32 }
  let c64 : Ctx := { mode := .long64, csD := .bits32 }
  let none : Prefixes := { pre := [], rex := .none }
  let w : Prefixes := { pre := [], rex := some { w := true, r := false, x := false, b := false } }
  let wb : Prefixes := { pre := [], rex := some { w := true, r := false, x := false, b := true } }
  let r : Prefixes := { pre := [], rex := some { w := false, r := true, x := false, b := false } }
  let b : Prefixes := { pre := [], rex := some { w := false, r := false, x := false, b := true } }
  decode c32 [0x88, 0xDC] = .ok (.movRm8R8 none 3 (.reg 4), [])
    ∧ decode c64 [0x48, 0x89, 0xE5] = .ok (.movRm64R64 w 4 (.reg 5), [])
    ∧ decode c32 [0x8B, 0x44, 0x8B, 0x10] = .ok (.movR32Rm32 none 0 (.mem (.sib 2 1 3 (.d8 0x10))), [])
    ∧ decode c32 [0xA1, 0x78, 0x56, 0x34, 0x12] = .ok (.movEaxMoffs32 none (.o32 0x12345678), [])
    ∧ decode c64 [0x48, 0xA2, 0x00, 0x10, 0, 0, 0, 0, 0, 0] = .ok (.movMoffs8AlRexW w (.o64 0x1000), [])
    ∧ decode c64 [0x49, 0xBF, 0xEF, 0xCD, 0xAB, 0x89, 0x67, 0x45, 0x23, 0x01]
        = .ok (.movR64Imm64 wb 7 0x0123456789ABCDEF, [])
    ∧ decode c32 [0xC7, 0x45, 0xFC, 0x01, 0x00, 0x00, 0x00] = .ok (.movRm32Imm32 none (.mem (.based 5 (.d8 0xFC))) 1, [])
    ∧ decode c32 [0x8C, 0xD8] = .ok (.movRm16Sreg none 3 (.reg 0), [])
    ∧ decode c64 [0x48, 0x8E, 0xD8] = .ok (.movSregRm64 w 3 (.reg 0), [])
    ∧ decode c64 [0x44, 0x0F, 0x22, 0xC0] = .ok (.movCr8R64 r 3 0, [])
    ∧ decode c64 [0x41, 0x0F, 0x21, 0xF8] = .ok (.movR64Dr b 3 7 0, [])

/-! ## Addresses -/

/-- The offset of every form of memory operand is its exact sum modulo 2 to the address size: registers, scaled index
(number 4 is none), signed displacement and, RIP-relative, the address behind the instruction (R62, R115 to R118). The
register numbers, sizes and values it and the other statements use: a REX bit before the three bits of a number (R108, R110,
R114, R116, R122), OpSize and AddrSize (R112, R113), displacements signed, direct offsets unsigned (R121). -/
def Obligations.EffectiveAddress : Prop :=
  -- 32- and 64-bit addressing
  (∀ (s : State) (p : Prefixes) (len : Nat) (a : Nat),
      (addrSize s.ctx p = .a32 ∧ a = 32) ∨ (addrSize s.ctx p = .a64 ∧ a = 64) →
      (∀ (rm : BitVec 3) (d : Disp32),
          ((s.memOffset p len (.based rm d)).toNat : Int) = ((s.reg (p.rmNum rm)).toNat + d.value.toInt) % 2 ^ a)
        ∧ (∀ (scale : BitVec 2) (index base : BitVec 3) (d : Disp32),
          ((s.memOffset p len (.sib scale index base d)).toNat : Int) =
            ((s.reg (p.rmNum base)).toNat
              + (if p.indexNum index = 4 then 0 else (s.reg (p.indexNum index)).toNat * 2 ^ scale.toNat)
              + d.value.toInt) % 2 ^ a)
        ∧ (∀ (scale : BitVec 2) (index : BitVec 3) (v : BitVec 32),
          ((s.memOffset p len (.sibNoBase scale index v)).toNat : Int) =
            ((if p.indexNum index = 4 then 0 else (s.reg (p.indexNum index)).toNat * 2 ^ scale.toNat)
              + v.toInt) % 2 ^ a)
        ∧ (∀ v : BitVec 32, s.mode = .long64 →
          ((s.memOffset p len (.disp32 v)).toNat : Int) = (s.pc.toNat + len + v.toInt) % 2 ^ a)
        ∧ ∀ v : BitVec 32, s.mode ≠ .long64 → (s.memOffset p len (.disp32 v)).toNat = v.toNat)
    -- 16-bit addressing: BX is 3, BP 5, SI 6, DI 7
    ∧ (∀ (s : State) (p : Prefixes) (len : Nat) (rm : BitVec 3) (d : Disp16) (v : BitVec 16) (sum : Nat),
      addrSize s.ctx p = .a16 →
      (rm, sum) ∈ [((0 : BitVec 3), (s.reg 3).toNat + (s.reg 6).toNat), (1, (s.reg 3).toNat + (s.reg 7).toNat),
        (2, (s.reg 5).toNat + (s.reg 6).toNat), (3, (s.reg 5).toNat + (s.reg 7).toNat), (4, (s.reg 6).toNat),
        (5, (s.reg 7).toNat), (6, (s.reg 5).toNat), (7, (s.reg 3).toNat)] →
      ((s.memOffset p len (.regs16 rm d)).toNat : Int) = (sum + d.value.toInt) % 2 ^ 16
        ∧ (s.memOffset p len (.abs16 v)).toNat = v.toNat)
    -- displacements and direct offsets
    ∧ (∀ (v8 : BitVec 8) (v16 : BitVec 16) (v32 : BitVec 32) (v64 : BitVec 64),
      Disp16.none.value.toInt = 0 ∧ (Disp16.d8 v8).value.toInt = v8.toInt ∧ (Disp16.d16 v16).value.toInt = v16.toInt
        ∧ Disp32.none.value.toInt = 0 ∧ (Disp32.d8 v8).value.toInt = v8.toInt
        ∧ (Disp32.d32 v32).value.toInt = v32.toInt
        ∧ (Moffs.o16 v16).value.toNat = v16.toNat ∧ (Moffs.o32 v32).value.toNat = v32.toNat
        ∧ (Moffs.o64 v64).value.toNat = v64.toNat)
    -- register numbers
    ∧ (∀ (p : Prefixes) (n : BitVec 3),
      let q := p.rex.getD { w := false, r := false, x := false, b := false }
      (p.regNum n).toNat = 8 * q.r.toNat + n.toNat ∧ (p.rmNum n).toNat = 8 * q.b.toNat + n.toNat
        ∧ (p.indexNum n).toNat = 8 * q.x.toNat + n.toNat ∧ p.rexR = q.r ∧ (p.hasRex = true ↔ p.rex ≠ none))
    -- sizes
    ∧ ∀ (c : Ctx) (p : Prefixes) (a : Nat),
      let csD := if (c.mode = .prot ∨ c.mode = .compat) ∧ c.csD = .bits32 then 32 else 16
      (opSize c p).bits =
          (if c.mode = .long64 then
            (if (∃ q, p.rex = some q ∧ q.w = true) then 64 else if .opSize ∈ p.pre then 16 else 32)
          else if .opSize ∈ p.pre then 48 - csD else csD)
        ∧ ((addrSize c p, a) ∈ [(AddrSize.a16, 16), (.a32, 32), (.a64, 64)] →
          a = (if c.mode = .long64 then (if .addrSize ∈ p.pre then 32 else 64)
            else if .addrSize ∈ p.pre then 48 - csD else csD))

/-- The linear address is base plus offset modulo 2^32 outside LONG64 (R64); in LONG64 it is modulo 2^64 and only FS and GS
have a base (R65). -/
def Obligations.LinearAddress : Prop :=
  ∀ (s : State) (r : Sreg) (off : Word),
    (s.mode ≠ .long64 → (s.linear r off).toNat = ((s.sreg r).hidden.base.toNat + off.toNat) % 2 ^ 32)
      ∧ (s.mode = .long64 → r = .fs ∨ r = .gs →
        (s.linear r off).toNat = ((s.sreg r).hidden.base.toNat + off.toNat) % 2 ^ 64)
      ∧ (s.mode = .long64 → r ≠ .fs → r ≠ .gs → s.linear r off = off)

/-- The default segment of a memory operand is SS with rBP or rSP as its base (BP under 16-bit addressing) and DS otherwise
(R63, R115, R116, R118). The last segment override counts; in LONG64 only FS and GS overrides have effect (R105; that the
last FS or GS override counts among the others is the model's reading, log 17). -/
def Obligations.SegmentChoice : Prop :=
  (∀ (s : State) (p : Prefixes) (dflt q : Sreg) (before after : List Prefix),
      (s.mode ≠ .long64 → p.pre = before ++ .segOverride q :: after → (∀ r, .segOverride r ∉ after) → s.segOf p dflt = q)
        ∧ (s.mode ≠ .long64 → (∀ r, .segOverride r ∉ p.pre) → s.segOf p dflt = dflt)
        ∧ (s.mode = .long64 → p.pre = before ++ .segOverride q :: after → q = .fs ∨ q = .gs →
          .segOverride .fs ∉ after → .segOverride .gs ∉ after → s.segOf p dflt = q)
        ∧ (s.mode = .long64 → .segOverride .fs ∉ p.pre → .segOverride .gs ∉ p.pre → s.segOf p dflt = dflt))
    ∧ ∀ (p : Prefixes) (m : MemForm),
      let onStack :=
        (∃ rm d, m = .regs16 rm d ∧ (rm = 2 ∨ rm = 3 ∨ rm = 6))
          ∨ (∃ rm d, m = .based rm d ∧ p.rmNum rm = 5)
          ∨ ∃ scale index base d, m = .sib scale index base d ∧ (p.rmNum base = 4 ∨ p.rmNum base = 5)
      (onStack → m.defaultSeg p = .ss) ∧ (¬ onStack → m.defaultSeg p = .ds)

/-! ## Data accesses -/

/-- In REAL an access inside the segment limit, to bytes that exist, passes: its bytes lie at its linear address (R66, R70,
R71, R83). -/
def Obligations.AccessInReal : Prop :=
  ∀ (s : State) (r : Sreg) (off : Word) (n : Nat) (acc : Access),
    s.mode = .real → (s.sreg r).hidden.limit.contains off.toNat n = true →
    (∀ k, k < n → s.isMapped (s.byteAddr (s.linear r off) k) = true) →
    s.access r off n acc = .ok (s.linear r off)

/-- In PROT, V86 and COMPAT an access that meets no condition of R66, R67, R68, R73 and R78, to bytes that exist, passes.
A read through an unreadable code segment is refused by the model (log 19), so it is excluded. -/
def Obligations.AccessInProtected : Prop :=
  ∀ (s : State) (r : Sreg) (off : Word) (n : Nat) (acc : Access) (phys : Word),
    s.mode = .prot ∨ s.mode = .v86 ∨ s.mode = .compat →
    (s.sreg r).hidden.limit.contains off.toNat n = true →
    (s.mode ≠ .v86 →
      (r = .cs ∨ r = .ss ∨ 4 ≤ (s.sreg r).sel.toNat)
        ∧ (acc = .write → (s.sreg r).hidden.kind ≠ .code
          ∧ ((s.sreg r).hidden.kind = .data → (s.sreg r).hidden.writable = true))
        ∧ (acc = .read → (s.sreg r).hidden.kind = .code → (s.sreg r).hidden.readable = true)) →
    ¬ (s.cr0.getLsbD 18 = true ∧ s.flags.ac = true ∧ s.cpl = 3 ∧ (s.linear r off).toNat % n ≠ 0) →
    s.pageCheck (s.linear r off) n acc = .ok phys →
    (∀ k, k < n → s.isMapped (s.byteAddr phys k) = true) →
    s.access r off n acc = .ok phys

/-- In LONG64 an access whose first and last byte are canonical and that meets no condition of R73 and R78, to bytes that
exist, passes: there is no limit, no NULL and no permission check (R35, R66 to R70). -/
def Obligations.AccessInLong64 : Prop :=
  ∀ (s : State) (r : Sreg) (off : Word) (n : Nat) (acc : Access) (phys : Word),
    s.mode = .long64 →
    (∀ k, s.par.vaBits - 1 ≤ k → k < 64 →
      (s.linear r off).getLsbD k = (s.linear r off).getLsbD 63
        ∧ (s.linear r off + BitVec.ofNat 64 (n - 1)).getLsbD k = (s.linear r off + BitVec.ofNat 64 (n - 1)).getLsbD 63) →
    ¬ (s.cr0.getLsbD 18 = true ∧ s.flags.ac = true ∧ s.cpl = 3 ∧ (s.linear r off).toNat % n ≠ 0) →
    s.pageCheck (s.linear r off) n acc = .ok phys →
    (∀ k, k < n → s.isMapped (s.byteAddr phys k) = true) →
    s.access r off n acc = .ok phys

/-- The segment checks that fail, by mode: limit (R66), NULL segment (R67), write permission (R68), canonical form (R69);
and when bytes lie inside a limit (R34). Where a write through SS fails both its limit and its permission, either exception
may be the one (R70, D8). -/
def Obligations.SegmentFaults : Prop :=
  (∀ (limit : BitVec 32) (big : Bool) (off n : Nat), 0 < n →
      ((Limit.up limit).contains off n = true ↔ ∀ k, k < n → off + k ≤ limit.toNat)
        ∧ ((Limit.down limit big).contains off n = true ↔
          ∀ k, k < n → limit.toNat < off + k ∧ off + k ≤ if big = true then 0xFFFFFFFF else 0xFFFF))
    ∧ ∀ (s : State) (r : Sreg) (off : Word) (n : Nat) (acc : Access),
      (s.mode = .real → (s.sreg r).hidden.limit.contains off.toNat n = false →
          s.access r off n acc = .error (.exception (if r = .ss then .ss none else .gp none)))
        ∧ (s.mode = .v86 → (s.sreg r).hidden.limit.contains off.toNat n = false →
          s.access r off n acc = .error (.exception (if r = .ss then .ss (some 0) else .gp (some 0))))
        ∧ (s.mode = .prot ∨ s.mode = .compat →
          (r = .ds ∨ r = .es ∨ r = .fs ∨ r = .gs → (s.sreg r).sel.toNat < 4 →
              s.access r off n acc = .error (.exception (.gp (some 0))))
            ∧ (r ≠ .ss → (s.sreg r).hidden.limit.contains off.toNat n = false →
              s.access r off n acc = .error (.exception (.gp (some 0))))
            ∧ (r = .ss → acc = .read → (s.sreg r).hidden.limit.contains off.toNat n = false →
              s.access r off n acc = .error (.exception (.ss (some 0))))
            ∧ (acc = .write → (s.sreg r).hidden.kind = .code
                ∨ ((s.sreg r).hidden.kind = .data ∧ (s.sreg r).hidden.writable = false) →
              s.access r off n acc = .error (.exception (.gp (some 0)))
                ∨ (r = .ss ∧ (s.sreg r).hidden.limit.contains off.toNat n = false
                  ∧ s.access r off n acc = .error (.exception (.ss (some 0)))))
            ∧ (r = .ss → acc = .write → (s.sreg r).hidden.kind = .data → (s.sreg r).hidden.writable = true →
              (s.sreg r).hidden.limit.contains off.toNat n = false →
              s.access r off n acc = .error (.exception (.ss (some 0)))))
        ∧ (s.mode = .long64 →
          (∃ k, s.par.vaBits - 1 ≤ k ∧ k < 64 ∧
            ((s.linear r off).getLsbD k ≠ (s.linear r off).getLsbD 63
              ∨ (s.linear r off + BitVec.ofNat 64 (n - 1)).getLsbD k
                ≠ (s.linear r off + BitVec.ofNat 64 (n - 1)).getLsbD 63)) →
          s.access r off n acc = .error (.exception (if r = .ss then .ss (some 0) else .gp (some 0))))

/-- The linear-level checks that fail, behind the segment checks: #AC for an unaligned access while checking is enabled
(R78), #PF with the code of PageCheck (R73), either when both fail (R70, D8), and a refusal for a byte that does not exist
(R83). -/
def Obligations.PageStageFaults : Prop :=
  ∀ (s : State) (r : Sreg) (off : Word) (n : Nat) (acc : Access) (code : BitVec 32) (phys : Word),
    s.segFault r off n acc = none → s.unreadable r acc = false →
    let aligned := ¬ (s.cr0.getLsbD 18 = true ∧ s.flags.ac = true ∧ s.cpl = 3 ∧ (s.linear r off).toNat % n ≠ 0)
    (s.mode ≠ .real → ¬ aligned → s.pageCheck (s.linear r off) n acc = .ok phys →
        s.access r off n acc = .error (.exception .ac))
      ∧ (s.mode ≠ .real → aligned → s.pageCheck (s.linear r off) n acc = .fault code →
        s.access r off n acc = .error (.exception (.pf code)))
      ∧ (s.mode ≠ .real → ¬ aligned → s.pageCheck (s.linear r off) n acc = .fault code →
        s.access r off n acc = .error (.exception .ac) ∨ s.access r off n acc = .error (.exception (.pf code)))
      ∧ ((s.mode = .real ∧ phys = s.linear r off)
          ∨ (s.mode ≠ .real ∧ aligned ∧ s.pageCheck (s.linear r off) n acc = .ok phys) →
        (∃ k, k < n ∧ s.isMapped (s.byteAddr phys k) = false) →
        ∃ a, s.isMapped a = false ∧ s.access r off n acc = .error (.refusal (.unmapped a)))

/-- A load that follows a store to the same bytes gives the bytes stored (R75, R76, R85). -/
def Obligations.LoadAfterStore : Prop :=
  ∀ (s t : State) (r : Sreg) (off : Word) (n : Nat) (v phys : Word),
    n ≤ 8 → Memory.wf s.mem → s.storeOp r off n v = .ok t →
    s.access r off n .write = .ok phys → t.access r off n .read = .ok phys →
    ∃ u, t.loadOp r off n = .ok u ∧ ∀ k, k < n → byteOf u k = byteOf v k

/-! ## The moves of general registers, memory and immediates -/

/-- Rows 1 to 10 with a register r/m operand (R150 to R159, R161): the destination register takes the source register's
operand, the reg operand going to r/m in rows 1 to 5 and the r/m operand to reg in rows 6 to 10. -/
def Obligations.RegisterMoves : Prop :=
  ∀ (s : State) (p : Prefixes) (reg rm : BitVec 3) (w : Width) (i : Instr) (dst src : BitVec 4),
    (w, i, dst, src) ∈
      [(.b8, .movRm8R8 p reg (.reg rm), p.rmNum rm, p.regNum reg), (.b8, .movRm8R8Rex p reg (.reg rm), p.rmNum rm, p.regNum reg),
        (.b16, .movRm16R16 p reg (.reg rm), p.rmNum rm, p.regNum reg),
        (.b32, .movRm32R32 p reg (.reg rm), p.rmNum rm, p.regNum reg),
        (.b64, .movRm64R64 p reg (.reg rm), p.rmNum rm, p.regNum reg),
        (.b8, .movR8Rm8 p reg (.reg rm), p.regNum reg, p.rmNum rm), (.b8, .movR8Rm8Rex p reg (.reg rm), p.regNum reg, p.rmNum rm),
        (.b16, .movR16Rm16 p reg (.reg rm), p.regNum reg, p.rmNum rm),
        (.b32, .movR32Rm32 p reg (.reg rm), p.regNum reg, p.rmNum rm),
        (.b64, .movR64Rm64 p reg (.reg rm), p.regNum reg, p.rmNum rm)] →
    p.lock = false →
    ∃ t, exec i s = .next t
      ∧ registerWritten s t w dst p.hasRex (s.operand w src p.hasRex)
      ∧ t = { s with x := t.x, pc := s.pcWrap (s.pc + BitVec.ofNat 64 i.size), intShadow := false }
      ∧ sameMemory s t

/-- Rows 25 to 29 (R176 to R180): the register named in the opcode takes the immediate. -/
def Obligations.ImmediateToRegister : Prop :=
  ∀ (s : State) (p : Prefixes) (r : BitVec 3) (v8 : BitVec 8) (v16 : BitVec 16) (v32 : BitVec 32) (v64 : BitVec 64)
    (w : Width) (i : Instr) (v : Word),
    (w, i, v) ∈ [(.b8, .movR8Imm8 p r v8, v8.setWidth 64), (.b8, .movR8Imm8Rex p r v8, v8.setWidth 64),
      (.b16, .movR16Imm16 p r v16, v16.setWidth 64), (.b32, .movR32Imm32 p r v32, v32.setWidth 64),
      (.b64, .movR64Imm64 p r v64, v64)] →
    p.lock = false →
    ∃ t, exec i s = .next t
      ∧ registerWritten s t w (p.rmNum r) p.hasRex v
      ∧ t = { s with x := t.x, pc := s.pcWrap (s.pc + BitVec.ofNat 64 i.size), intShadow := false }
      ∧ sameMemory s t

/-- Rows 30 to 34 with a register destination (R181 to R185): the r/m register operand takes the immediate, row 34 its
sign extension to 64 bits (R120, C1). -/
def Obligations.ImmediateToRmRegister : Prop :=
  ∀ (s : State) (p : Prefixes) (rm : BitVec 3) (v8 : BitVec 8) (v16 : BitVec 16) (v32 : BitVec 32)
    (w : Width) (i : Instr) (v : Word),
    (w, i, v) ∈ [(.b8, .movRm8Imm8 p (.reg rm) v8, v8.setWidth 64), (.b8, .movRm8Imm8Rex p (.reg rm) v8, v8.setWidth 64),
      (.b16, .movRm16Imm16 p (.reg rm) v16, v16.setWidth 64), (.b32, .movRm32Imm32 p (.reg rm) v32, v32.setWidth 64),
      (.b64, .movRm64Imm32 p (.reg rm) v32, v32.signExtend 64)] →
    p.lock = false →
    ∃ t, exec i s = .next t
      ∧ registerWritten s t w (p.rmNum rm) p.hasRex v
      ∧ t = { s with x := t.x, pc := s.pcWrap (s.pc + BitVec.ofNat 64 i.size), intShadow := false }
      ∧ sameMemory s t

/-- Rows 1 to 5 with a memory destination (R150 to R154, R164): the bytes of the reg operand are stored at the operand's
address, and nothing else changes. -/
def Obligations.RegisterToMemory : Prop :=
  ∀ (s : State) (p : Prefixes) (reg : BitVec 3) (m : MemForm) (w : Width) (i : Instr) (phys : Word),
    (w, i) ∈ [(.b8, .movRm8R8 p reg (.mem m)), (.b8, .movRm8R8Rex p reg (.mem m)), (.b16, .movRm16R16 p reg (.mem m)),
      (.b32, .movRm32R32 p reg (.mem m)), (.b64, .movRm64R64 p reg (.mem m))] →
    p.lock = false → Memory.wf s.mem →
    s.access (s.segOf p (m.defaultSeg p)) (s.memOffset p i.size m) w.bytes .write = .ok phys →
    s.hitsText (s.linear (s.segOf p (m.defaultSeg p)) (s.memOffset p i.size m)) w.bytes = false →
    ∃ t, exec i s = .next t
      ∧ bytesWritten s t phys w.bytes (s.operand w (p.regNum reg) p.hasRex)
      ∧ t = { s with mem := t.mem, pc := s.pcWrap (s.pc + BitVec.ofNat 64 i.size), intShadow := false }

/-- Rows 6 to 10 with a memory source (R155 to R159, R164): the reg operand takes the value of the bytes at the operand's
address, computed from the registers as they were. -/
def Obligations.MemoryToRegister : Prop :=
  ∀ (s : State) (p : Prefixes) (reg : BitVec 3) (m : MemForm) (w : Width) (i : Instr) (phys : Word),
    (w, i) ∈ [(.b8, .movR8Rm8 p reg (.mem m)), (.b8, .movR8Rm8Rex p reg (.mem m)), (.b16, .movR16Rm16 p reg (.mem m)),
      (.b32, .movR32Rm32 p reg (.mem m)), (.b64, .movR64Rm64 p reg (.mem m))] →
    p.lock = false →
    s.access (s.segOf p (m.defaultSeg p)) (s.memOffset p i.size m) w.bytes .read = .ok phys →
    ∃ t v, exec i s = .next t
      ∧ bytesRead s phys w.bytes v
      ∧ registerWritten s t w (p.regNum reg) p.hasRex v
      ∧ t = { s with x := t.x, pc := s.pcWrap (s.pc + BitVec.ofNat 64 i.size), intShadow := false }
      ∧ sameMemory s t

/-- Rows 15 to 19 (R166 to R170): the accumulator takes the value of the bytes at the direct offset, through DS unless
overridden (R121). -/
def Obligations.OffsetToAccumulator : Prop :=
  ∀ (s : State) (p : Prefixes) (off : Moffs) (w : Width) (i : Instr) (phys : Word),
    (w, i) ∈ [(.b8, .movAlMoffs8 p off), (.b8, .movAlMoffs8RexW p off), (.b16, .movAxMoffs16 p off),
      (.b32, .movEaxMoffs32 p off), (.b64, .movRaxMoffs64 p off)] →
    p.lock = false →
    s.access (s.segOf p .ds) off.value w.bytes .read = .ok phys →
    ∃ t v, exec i s = .next t
      ∧ bytesRead s phys w.bytes v
      ∧ registerWritten s t w 0 p.hasRex v
      ∧ t = { s with x := t.x, pc := s.pcWrap (s.pc + BitVec.ofNat 64 i.size), intShadow := false }
      ∧ sameMemory s t

/-- Rows 20 to 24 (R171 to R175): the bytes of the accumulator are stored at the direct offset, through DS unless overridden
(R121), and nothing else changes. -/
def Obligations.AccumulatorToOffset : Prop :=
  ∀ (s : State) (p : Prefixes) (off : Moffs) (w : Width) (i : Instr) (phys : Word),
    (w, i) ∈ [(.b8, .movMoffs8Al p off), (.b8, .movMoffs8AlRexW p off), (.b16, .movMoffs16Ax p off),
      (.b32, .movMoffs32Eax p off), (.b64, .movMoffs64Rax p off)] →
    p.lock = false → Memory.wf s.mem →
    s.access (s.segOf p .ds) off.value w.bytes .write = .ok phys →
    s.hitsText (s.linear (s.segOf p .ds) off.value) w.bytes = false →
    ∃ t, exec i s = .next t
      ∧ bytesWritten s t phys w.bytes (s.reg 0)
      ∧ t = { s with mem := t.mem, pc := s.pcWrap (s.pc + BitVec.ofNat 64 i.size), intShadow := false }

/-- Rows 30 to 34 with a memory destination (R181 to R185): the bytes of the immediate are stored at the operand's address,
row 34 those of its sign extension (R120, C1), and nothing else changes. -/
def Obligations.ImmediateToMemory : Prop :=
  ∀ (s : State) (p : Prefixes) (m : MemForm) (v8 : BitVec 8) (v16 : BitVec 16) (v32 : BitVec 32)
    (w : Width) (i : Instr) (v phys : Word),
    (w, i, v) ∈ [(.b8, .movRm8Imm8 p (.mem m) v8, v8.setWidth 64), (.b8, .movRm8Imm8Rex p (.mem m) v8, v8.setWidth 64),
      (.b16, .movRm16Imm16 p (.mem m) v16, v16.setWidth 64), (.b32, .movRm32Imm32 p (.mem m) v32, v32.setWidth 64),
      (.b64, .movRm64Imm32 p (.mem m) v32, v32.signExtend 64)] →
    p.lock = false → Memory.wf s.mem →
    s.access (s.segOf p (m.defaultSeg p)) (s.memOffset p i.size m) w.bytes .write = .ok phys →
    s.hitsText (s.linear (s.segOf p (m.defaultSeg p)) (s.memOffset p i.size m)) w.bytes = false →
    ∃ t, exec i s = .next t
      ∧ bytesWritten s t phys w.bytes v
      ∧ t = { s with mem := t.mem, pc := s.pcWrap (s.pc + BitVec.ofNat 64 i.size), intShadow := false }

/-- An instruction whose data access meets an exception raises it (R162, R164, R221), one whose access the model refuses is
refused, and a store whose access passes and whose bytes overlap the program text is refused (R89, R342). A store overlaps
the text when one of its bytes has the linear address of a byte of the text, CS base plus offset, offsets counted modulo the
width of the instruction pointer: the model's choice, log 9; that the checks of the access come first: log 42. Premises: no
#UD condition of R163 and R220 comes first. -/
def Obligations.DataAccessStops : Prop :=
  (∀ (s : State) (i : Instr) (d : DataAccess),
      i.prefixes.lock = false → s.dataAccess i = some d →
      (∀ p g rm, i = .movRm16Sreg p g rm ∨ i = .movRm64Sreg p g rm → g.toNat < 6) →
      (∀ p g rm, i = .movSregRm16 p g rm ∨ i = .movSregRm64 p g rm → g.toNat < 6 ∧ g ≠ 1) →
      (∀ e, s.access d.seg d.off d.n d.acc = .error (.exception e) → exec i s = raises s e)
        ∧ (∀ q, s.access d.seg d.off d.n d.acc = .error (.refusal q) → exec i s = .refused q)
        ∧ (∀ phys, d.acc = .write → s.access d.seg d.off d.n d.acc = .ok phys →
          s.hitsText (s.linear d.seg d.off) d.n = true → exec i s = .refused .storeIntoText))
    ∧ ∀ (s : State) (r : Sreg) (off : Word) (n : Nat),
      s.hitsText (s.linear r off) n = true ↔
        ∃ (k j : Nat) (o : Word), k < n ∧ j < s.text.bytes.length
          ∧ o.toNat = (s.text.start.toNat + j) %
            (if s.mode = .long64 then 2 ^ 64
              else if s.mode = .real ∨ s.mode = .v86 ∨ s.csD = .bits16 then 2 ^ 16 else 2 ^ 32)
          ∧ s.linear r (off + BitVec.ofNat 64 k) = s.linear .cs o

/-! ## Segment registers -/

/-- Rows 11 and 12 with a register destination (R203, R204, R205): at 16 and 64 bits, and at 32 bits on P4_XEON_P6 or in
LONG64, the register takes the selector zero-extended; at 32 bits elsewhere bits 31:16 are some value h, unspecified. -/
def Obligations.SelectorToRegister : Prop :=
  ∀ (s : State) (p : Prefixes) (g rm : BitVec 3) (r : Sreg) (i : Instr),
    i = .movRm16Sreg p g (.reg rm) ∨ i = .movRm64Sreg p g (.reg rm) →
    (g, r) ∈ [((0 : BitVec 3), Sreg.es), (1, .cs), (2, .ss), (3, .ds), (4, .fs), (5, .gs)] →
    p.lock = false →
    ∃ t h, exec i s = .next t
      ∧ (opSize s.ctx p ≠ .b32 ∨ s.mode = .long64 ∨ s.par.procFamily = .p4XeonP6 → h = 0 ∧ t.draws = s.draws)
      ∧ registerWritten s t (opSize s.ctx p) (p.rmNum rm) p.hasRex (((h : BitVec 16) ++ (s.sreg r).sel).setWidth 64)
      ∧ t = { s with x := t.x, pc := s.pcWrap (s.pc + BitVec.ofNat 64 i.size), intShadow := false, draws := t.draws }
      ∧ sameMemory s t

/-- Rows 11 and 12 with a memory destination (R201, R203, R205): the two bytes of the selector are stored, whatever the
operand size, and nothing else changes. -/
def Obligations.SelectorToMemory : Prop :=
  ∀ (s : State) (p : Prefixes) (g : BitVec 3) (m : MemForm) (r : Sreg) (i : Instr) (phys : Word),
    i = .movRm16Sreg p g (.mem m) ∨ i = .movRm64Sreg p g (.mem m) →
    (g, r) ∈ [((0 : BitVec 3), Sreg.es), (1, .cs), (2, .ss), (3, .ds), (4, .fs), (5, .gs)] →
    p.lock = false → Memory.wf s.mem →
    s.access (s.segOf p (m.defaultSeg p)) (s.memOffset p i.size m) 2 .write = .ok phys →
    s.hitsText (s.linear (s.segOf p (m.defaultSeg p)) (s.memOffset p i.size m)) 2 = false →
    ∃ t, exec i s = .next t
      ∧ bytesWritten s t phys 2 ((s.sreg r).sel.setWidth 64)
      ∧ t = { s with mem := t.mem, pc := s.pcWrap (s.pc + BitVec.ofNat 64 i.size), intShadow := false }

/-- The #UD conditions of rows 11 to 14, in every mode and before any operand is read, so whatever the operands: a LOCK
prefix, CS as the destination of 8E, and a number that names no segment register (R220). 8C with reg = 001 meets none
of them: it reads CS. -/
def Obligations.BadSegmentRegister : Prop :=
  ∀ (s : State) (p : Prefixes) (g : BitVec 3) (rm : Rm),
    (p.lock = true → ∀ i, i ∈ [.movRm16Sreg p g rm, .movRm64Sreg p g rm, .movSregRm16 p g rm, .movSregRm64 p g rm] →
        exec i s = raises s .ud)
      ∧ (g = 1 ∨ g = 6 ∨ g = 7 →
        exec (.movSregRm16 p g rm) s = raises s .ud ∧ exec (.movSregRm64 p g rm) s = raises s .ud)
      ∧ (g = 6 ∨ g = 7 → exec (.movRm16Sreg p g rm) s = raises s .ud ∧ exec (.movRm64Sreg p g rm) s = raises s .ud)
      ∧ (p.lock = false → ∀ i, i ∈ [.movRm16Sreg p 1 rm, .movRm64Sreg p 1 rm] →
        exec i s ≠ raises s .ud
          ∧ ∀ q, rm = .reg q → ∃ t, exec i s = .next t ∧ (t.reg (p.rmNum q)).setWidth 16 = s.seg.cs.sel)

/-- Rows 13 and 14 in REAL and V86 (R206, R216): any selector is accepted, the base is 16 times it, limit and attributes
stay; a load of SS starts the interrupt inhibition (R218). -/
def Obligations.SegmentLoadReal : Prop :=
  ∀ (s : State) (p : Prefixes) (g : BitVec 3) (rm : Rm) (r : Sreg) (i : Instr) (sel : BitVec 16),
    i = .movSregRm16 p g rm ∨ i = .movSregRm64 p g rm →
    (g, r) ∈ [((0 : BitVec 3), Sreg.es), (2, .ss), (3, .ds), (4, .fs), (5, .gs)] →
    p.lock = false → s.mode = .real ∨ s.mode = .v86 → selectorSource s p i.size rm sel →
    ∃ t, exec i s = .next t
      ∧ t.sreg r = { sel := sel, hidden := { (s.sreg r).hidden with base := BitVec.ofNat 64 (16 * sel.toNat) } }
      ∧ (∀ q, q ≠ r → t.sreg q = s.sreg q)
      ∧ (r ≠ .ss → t.intShadow = false ∧ t.draws = s.draws)
      ∧ (r = .ss → s.intShadow = false → t.intShadow = true ∧ t.draws = s.draws)
      ∧ t = { s with seg := t.seg, pc := s.pcWrap (s.pc + BitVec.ofNat 64 i.size), intShadow := t.intShadow,
                     draws := t.draws }
      ∧ sameMemory s t

/-- Rows 13 and 14 for DS, ES, FS and GS in PROT, COMPAT and LONG64 (R212, R214): a descriptor that passes every check is
loaded, both parts. -/
def Obligations.SegmentLoadData : Prop :=
  ∀ (s : State) (p : Prefixes) (g : BitVec 3) (rm : Rm) (r : Sreg) (i : Instr) (sel : BitVec 16) (d : Desc),
    i = .movSregRm16 p g rm ∨ i = .movSregRm64 p g rm →
    (g, r) ∈ [((0 : BitVec 3), Sreg.es), (3, .ds), (4, .fs), (5, .gs)] →
    p.lock = false → s.mode = .prot ∨ s.mode = .compat ∨ s.mode = .long64 → selectorSource s p i.size rm sel →
    4 ≤ sel.toNat → s.descFetch sel = .desc d →
    d.kind = .data ∨ (d.kind = .code ∧ d.readable = true) →
    (d.kind = .data ∨ d.conforming = false →
      match s.par.dataSegPrivCheck with
      | .both => sel.toNat % 4 ≤ d.dpl.toNat ∨ s.cpl.toNat ≤ d.dpl.toNat
      | .either => sel.toNat % 4 ≤ d.dpl.toNat ∧ s.cpl.toNat ≤ d.dpl.toNat) →
    d.present = true →
    ∃ t, exec i s = .next t
      ∧ t.sreg r = { sel := sel, hidden := { d with base := (d.base.setWidth 32).setWidth 64 } }
      ∧ (∀ q, q ≠ r → t.sreg q = s.sreg q)
      ∧ t = { s with seg := t.seg, pc := s.pcWrap (s.pc + BitVec.ofNat 64 i.size), intShadow := false }
      ∧ sameMemory s t

/-- Rows 13 and 14 for DS, ES, FS and GS in PROT, COMPAT and LONG64, the checks that fail (R212, R215): #GP(selector), and
#NP(selector) only when every other check passes. The error code is the selector with bits 1:0 clear (log 30). That a
descriptor table not canonical raises #GP(selector) in PROT and COMPAT too is the model's choice (log 5): R212 has it in
LONG64, and D6 admits that answer there only. -/
def Obligations.SegmentLoadDataFaults : Prop :=
  ∀ (s : State) (p : Prefixes) (g : BitVec 3) (rm : Rm) (r : Sreg) (i : Instr) (sel : BitVec 16),
    i = .movSregRm16 p g rm ∨ i = .movSregRm64 p g rm →
    (g, r) ∈ [((0 : BitVec 3), Sreg.es), (3, .ds), (4, .fs), (5, .gs)] →
    p.lock = false → s.mode = .prot ∨ s.mode = .compat ∨ s.mode = .long64 → selectorSource s p i.size rm sel →
    4 ≤ sel.toNat →
    (s.descFetch sel = .outsideLimit ∨ s.descFetch sel = .nonCanonicalTable →
        exec i s = raises s (.gp (some (sel &&& 0xFFFC))))
      ∧ ∀ d, s.descFetch sel = .desc d →
        let kindOk := d.kind = .data ∨ (d.kind = .code ∧ d.readable = true)
        let privOk := d.kind = .data ∨ d.conforming = false →
          match s.par.dataSegPrivCheck with
          | .both => sel.toNat % 4 ≤ d.dpl.toNat ∨ s.cpl.toNat ≤ d.dpl.toNat
          | .either => sel.toNat % 4 ≤ d.dpl.toNat ∧ s.cpl.toNat ≤ d.dpl.toNat
        (¬ kindOk → exec i s = raises s (.gp (some (sel &&& 0xFFFC))))
          ∧ (¬ privOk → exec i s = raises s (.gp (some (sel &&& 0xFFFC))))
          ∧ (kindOk → privOk → d.present = false → exec i s = raises s (.np (sel &&& 0xFFFC)))

/-- Rows 13 and 14 with a NULL selector for DS, ES, FS or GS in PROT, COMPAT and LONG64 (R213): the selector is loaded
whole, without an exception; nothing is said of the hidden part (U10, U11). -/
def Obligations.SegmentLoadNull : Prop :=
  ∀ (s : State) (p : Prefixes) (g : BitVec 3) (rm : Rm) (r : Sreg) (i : Instr) (sel : BitVec 16),
    i = .movSregRm16 p g rm ∨ i = .movSregRm64 p g rm →
    (g, r) ∈ [((0 : BitVec 3), Sreg.es), (3, .ds), (4, .fs), (5, .gs)] →
    p.lock = false → s.mode = .prot ∨ s.mode = .compat ∨ s.mode = .long64 → selectorSource s p i.size rm sel →
    sel.toNat < 4 →
    ∃ t, exec i s = .next t
      ∧ (t.sreg r).sel = sel
      ∧ (∀ q, q ≠ r → t.sreg q = s.sreg q)
      ∧ t = { s with seg := t.seg, pc := s.pcWrap (s.pc + BitVec.ofNat 64 i.size), intShadow := false,
                     draws := t.draws }
      ∧ sameMemory s t

/-- Rows 13 and 14 for SS in PROT, COMPAT and LONG64 (R210, R211, R214, R218): a descriptor that passes every check is
loaded, both parts, and in LONG64 a NULL selector of the current level below 3; the load starts the interrupt inhibition. -/
def Obligations.StackSegmentLoad : Prop :=
  ∀ (s : State) (p : Prefixes) (rm : Rm) (i : Instr) (sel : BitVec 16),
    i = .movSregRm16 p 2 rm ∨ i = .movSregRm64 p 2 rm →
    p.lock = false → s.mode = .prot ∨ s.mode = .compat ∨ s.mode = .long64 → selectorSource s p i.size rm sel →
    sel.toNat % 4 = s.cpl.toNat →
    (∀ d, 4 ≤ sel.toNat → s.descFetch sel = .desc d → d.kind = .data → d.writable = true → d.dpl = s.cpl →
        d.present = true →
        ∃ t, exec i s = .next t
          ∧ t.sreg .ss = { sel := sel, hidden := { d with base := (d.base.setWidth 32).setWidth 64 } }
          ∧ (∀ q, q ≠ .ss → t.sreg q = s.sreg q)
          ∧ (s.intShadow = false → t.intShadow = true ∧ t.draws = s.draws)
          ∧ t = { s with seg := t.seg, pc := s.pcWrap (s.pc + BitVec.ofNat 64 i.size), intShadow := t.intShadow,
                         draws := t.draws }
          ∧ sameMemory s t)
      ∧ (s.mode = .long64 → sel.toNat < 4 → s.cpl ≠ 3 →
        ∃ t, exec i s = .next t
          ∧ (t.sreg .ss).sel = sel
          ∧ (∀ q, q ≠ .ss → t.sreg q = s.sreg q)
          ∧ (s.intShadow = false → t.intShadow = true)
          ∧ t = { s with seg := t.seg, pc := s.pcWrap (s.pc + BitVec.ofNat 64 i.size), intShadow := t.intShadow,
                         draws := t.draws }
          ∧ sameMemory s t)

/-- Rows 13 and 14 for SS in PROT, COMPAT and LONG64, the checks that fail, in the order of the listing (R210, R211, R215):
NULL, then #GP(selector), then #SS(selector) for a segment not present. The error code is the selector with bits 1:0 clear
(log 30). That a descriptor table not canonical raises #GP(selector) in PROT and COMPAT too is the model's choice (log 5):
D6 admits that answer in LONG64 only. -/
def Obligations.StackSegmentFaults : Prop :=
  ∀ (s : State) (p : Prefixes) (rm : Rm) (i : Instr) (sel : BitVec 16),
    i = .movSregRm16 p 2 rm ∨ i = .movSregRm64 p 2 rm →
    p.lock = false → s.mode = .prot ∨ s.mode = .compat ∨ s.mode = .long64 → selectorSource s p i.size rm sel →
    (sel.toNat < 4 → s.mode ≠ .long64 ∨ s.cpl = 3 ∨ sel.toNat ≠ s.cpl.toNat → exec i s = raises s (.gp (some 0)))
      ∧ (4 ≤ sel.toNat → s.descFetch sel = .outsideLimit ∨ s.descFetch sel = .nonCanonicalTable →
        exec i s = raises s (.gp (some (sel &&& 0xFFFC))))
      ∧ ∀ d, 4 ≤ sel.toNat → s.descFetch sel = .desc d →
        let good := sel.toNat % 4 = s.cpl.toNat ∧ d.kind = .data ∧ d.writable = true ∧ d.dpl = s.cpl
        (¬ good → exec i s = raises s (.gp (some (sel &&& 0xFFFC))))
          ∧ (good → d.present = false → exec i s = raises s (.ss (some (sel &&& 0xFFFC))))

/-! ## Control registers -/

/-- Rows 35, 36 and 37 (R232, R233, R234, R239): the register takes the control register; the six flags are undefined
(R253), so nothing is said of them. -/
def Obligations.ReadControl : Prop :=
  ∀ (s : State) (p : Prefixes) (mod : BitVec 2) (cr rm : BitVec 3) (w : Width) (i : Instr) (v : Word),
    (w, i, p.regNum cr, v) ∈ [(.b32, .movR32Cr p mod cr rm, 0, s.cr0), (.b32, .movR32Cr p mod cr rm, 2, s.cr2),
        (.b32, .movR32Cr p mod cr rm, 3, s.cr3), (.b32, .movR32Cr p mod cr rm, 4, s.cr4),
        (.b64, .movR64Cr p mod cr rm, 0, s.cr0), (.b64, .movR64Cr p mod cr rm, 2, s.cr2),
        (.b64, .movR64Cr p mod cr rm, 3, s.cr3), (.b64, .movR64Cr p mod cr rm, 4, s.cr4)]
      ∨ (w = .b64 ∧ i = .movR64Cr8 p mod rm ∧ v = s.cr8) →
    p.lock = false → s.mode ≠ .v86 → s.cpl = 0 → (p.regNum cr = 4 → s.noCr4 = false) →
    ∃ t, exec i s = .next t
      ∧ registerWritten s t w (p.rmNum rm) false v
      ∧ t.flags.ac = s.flags.ac
      ∧ t = { s with x := t.x, pc := s.pcWrap (s.pc + BitVec.ofNat 64 i.size), flags := t.flags, intShadow := false,
                     draws := t.draws }
      ∧ sameMemory s t

/-- The common checks of MOV to and from control registers that fail outside V86 (R238): #UD for CR1, CR5, CR6, CR7 and
CR9 to CR15, before #GP(0) for a privilege level other than 0. On a processor without CR4 a move of CR4 is refused (U9); that
the common checks come before that refusal is the model's choice (log 20). -/
def Obligations.ControlFaults : Prop :=
  ∀ (s : State) (p : Prefixes) (mod : BitVec 2) (cr rm : BitVec 3) (i : Instr),
    i ∈ [.movR32Cr p mod cr rm, .movR64Cr p mod cr rm, .movCrR32 p mod cr rm, .movCrR64 p mod cr rm] →
    p.lock = false → s.mode ≠ .v86 →
    (p.regNum cr ∈ [(1 : BitVec 4), 5, 6, 7, 9, 10, 11, 12, 13, 14, 15] → exec i s = raises s .ud)
      ∧ (p.regNum cr ∈ [(0 : BitVec 4), 2, 3, 4, 8] → s.cpl ≠ 0 → exec i s = raises s (.gp s.zeroCode))
      ∧ (p.regNum cr = 4 → s.cpl = 0 → s.noCr4 = true → exec i s = .refused .noCr4)
      ∧ (s.cpl ≠ 0 → exec (.movR64Cr8 p mod rm) s = raises s (.gp s.zeroCode)
        ∧ exec (.movCr8R64 p mod rm) s = raises s (.gp s.zeroCode))

/-- Rows 38 and 39 for CR0 (R240, R241, R242, R251, R252): a value that passes every check is stored without its reserved
bits, with ET on P4_XEON_P6, and its TLB events are recorded. That a 32-bit write leaves bits 63:32 zero is the model's
reading (log 21). -/
def Obligations.WriteControl0 : Prop :=
  ∀ (s : State) (p : Prefixes) (mod : BitVec 2) (cr rm : BitVec 3) (i : Instr) (v : Word),
    (i, v) ∈ [(.movCrR32 p mod cr rm, ((s.reg (p.rmNum rm)).setWidth 32).setWidth 64),
      (.movCrR64 p mod cr rm, s.reg (p.rmNum rm))] →
    p.regNum cr = 0 → p.lock = false → s.mode ≠ .v86 → s.cpl = 0 →
    ¬ (v.getLsbD 31 = true ∧ v.getLsbD 0 = false) → ¬ (v.getLsbD 30 = false ∧ v.getLsbD 29 = true) →
    (s.mode = .long64 → s.cr0.getLsbD 31 = true → v.getLsbD 31 = true) →
    (s.mode = .long64 → s.par.cr0HiFault = true → v.extractLsb' 32 32 = 0) →
    (s.mode = .prot → s.pdptCheck 0 v = .ok) →
    v.getLsbD 0 = s.cr0.getLsbD 0 → (s.mode = .compat → v.getLsbD 31 = s.cr0.getLsbD 31) →
    ∃ t, exec i s = .next t
      ∧ t.cr0 = (v &&& ~~~s.par.cr0Rsvd) ||| (if s.par.procFamily = .p4XeonP6 then 0x10 else 0)
      ∧ t.tlb = s.tlb ++ .cr0Write s.cr0 t.cr0
        :: (if s.par.procFamily = .p4XeonP6 ∧ v.getLsbD 31 ≠ s.cr0.getLsbD 31 then [.flushAll] else [])
      ∧ t.flags.ac = s.flags.ac
      ∧ t = { s with cr0 := t.cr0, tlb := t.tlb, pc := s.pcWrap (s.pc + BitVec.ofNat 64 i.size), flags := t.flags,
                     intShadow := false, draws := t.draws }
      ∧ sameMemory s t

/-- Rows 38 and 39 for CR0, the checks that fail (R240, R248): each raises #GP(0); a value that passes them and would change
the operating mode is refused. -/
def Obligations.WriteControl0Stops : Prop :=
  ∀ (s : State) (p : Prefixes) (mod : BitVec 2) (cr rm : BitVec 3) (i : Instr) (v : Word),
    (i, v) ∈ [(.movCrR32 p mod cr rm, ((s.reg (p.rmNum rm)).setWidth 32).setWidth 64),
      (.movCrR64 p mod cr rm, s.reg (p.rmNum rm))] →
    p.regNum cr = 0 → p.lock = false → s.mode ≠ .v86 → s.cpl = 0 →
    let faults :=
      (v.getLsbD 31 = true ∧ v.getLsbD 0 = false) ∨ (v.getLsbD 30 = false ∧ v.getLsbD 29 = true)
        ∨ (s.mode = .long64 ∧ s.cr0.getLsbD 31 = true ∧ v.getLsbD 31 = false)
        ∨ (s.mode = .compat ∧ s.cr0.getLsbD 31 = true ∧ v.getLsbD 31 = false ∧ s.cr4.getLsbD 17 = true)
        ∨ (s.mode = .long64 ∧ s.par.cr0HiFault = true ∧ v.extractLsb' 32 32 ≠ 0)
        ∨ (s.mode = .prot ∧ s.pdptCheck 0 v = .reservedBitsSet)
    (faults → exec i s = raises s (.gp s.zeroCode))
      ∧ (¬ faults → v.getLsbD 0 ≠ s.cr0.getLsbD 0 ∨ (s.mode = .compat ∧ v.getLsbD 31 ≠ s.cr0.getLsbD 31) →
        exec i s = .refused .modeChange)

/-- Rows 38 and 39 for CR2 (R235, R236, R243): every bit is stored, without a check and without a TLB event. That a 32-bit
write leaves bits 63:32 zero is the model's reading (log 21). -/
def Obligations.WriteControl2 : Prop :=
  ∀ (s : State) (p : Prefixes) (mod : BitVec 2) (cr rm : BitVec 3) (i : Instr) (v : Word),
    (i, v) ∈ [(.movCrR32 p mod cr rm, ((s.reg (p.rmNum rm)).setWidth 32).setWidth 64),
      (.movCrR64 p mod cr rm, s.reg (p.rmNum rm))] →
    p.regNum cr = 2 → p.lock = false → s.mode ≠ .v86 → s.cpl = 0 →
    ∃ t, exec i s = .next t
      ∧ t.cr2 = v
      ∧ t.flags.ac = s.flags.ac
      ∧ t = { s with cr2 := t.cr2, pc := s.pcWrap (s.pc + BitVec.ofNat 64 i.size), flags := t.flags,
                     intShadow := false, draws := t.draws }
      ∧ sameMemory s t

/-- Rows 38 and 39 for CR3 (R244, C7): a 1 in a reserved bit raises #GP(0) in COMPAT and LONG64 and is dropped elsewhere;
the value is stored without the bits of CR3_RSVD, which R9 makes hold bit 63, the command bit under PCIDE; the TLB event is
recorded. That a 32-bit write leaves bits 63:32 zero is the model's reading (log 21). -/
def Obligations.WriteControl3 : Prop :=
  ∀ (s : State) (p : Prefixes) (mod : BitVec 2) (cr rm : BitVec 3) (i : Instr) (v : Word),
    (i, v) ∈ [(.movCrR32 p mod cr rm, ((s.reg (p.rmNum rm)).setWidth 32).setWidth 64),
      (.movCrR64 p mod cr rm, s.reg (p.rmNum rm))] →
    p.regNum cr = 3 → p.lock = false → s.mode ≠ .v86 → s.cpl = 0 →
    let faults :=
      ((s.mode = .compat ∨ s.mode = .long64)
          ∧ ∃ k, v.getLsbD k = true ∧ s.par.cr3Rsvd.getLsbD k = true ∧ ¬ (k = 63 ∧ s.cr4.getLsbD 17 = true))
        ∨ (s.mode = .prot ∧ s.pdptCheck 3 v = .reservedBitsSet)
    (faults → exec i s = raises s (.gp s.zeroCode))
      ∧ (¬ faults →
        ∃ t, exec i s = .next t
          ∧ t.cr3 = v &&& ~~~s.par.cr3Rsvd
          ∧ t.tlb = s.tlb ++ [.cr3Write (s.cr4.getLsbD 17 && v.getLsbD 63)]
          ∧ t.flags.ac = s.flags.ac
          ∧ t = { s with cr3 := t.cr3, tlb := t.tlb, pc := s.pcWrap (s.pc + BitVec.ofNat 64 i.size), flags := t.flags,
                         intShadow := false, draws := t.draws }
          ∧ sameMemory s t)

/-- Rows 38 and 39 for CR4 (R245, R247, R251, R252, C8): each check that fails raises #GP(0); a value that passes them is
stored whole and its TLB events are recorded. That a 32-bit write leaves bits 63:32 zero is the model's reading (log 21). -/
def Obligations.WriteControl4 : Prop :=
  ∀ (s : State) (p : Prefixes) (mod : BitVec 2) (cr rm : BitVec 3) (i : Instr) (v : Word),
    (i, v) ∈ [(.movCrR32 p mod cr rm, ((s.reg (p.rmNum rm)).setWidth 32).setWidth 64),
      (.movCrR64 p mod cr rm, s.reg (p.rmNum rm))] →
    p.regNum cr = 4 → p.lock = false → s.mode ≠ .v86 → s.cpl = 0 → s.noCr4 = false →
    let faults :=
      v &&& s.par.cr4Rsvd ≠ 0
        ∨ ((s.mode = .real ∨ s.mode = .prot) ∧ v.getLsbD 17 = true)
        ∨ ((s.mode = .compat ∨ s.mode = .long64) ∧ s.cr4.getLsbD 17 = false ∧ v.getLsbD 17 = true
          ∧ s.cr3.extractLsb' 0 12 ≠ 0)
        ∨ ((s.mode = .compat ∨ s.mode = .long64) ∧ s.cr4.getLsbD 5 = true ∧ v.getLsbD 5 = false)
        ∨ (s.mode = .prot ∧ s.pdptCheck 4 v = .reservedBitsSet)
    (faults → exec i s = raises s (.gp s.zeroCode))
      ∧ (¬ faults →
        ∃ t, exec i s = .next t
          ∧ t.cr4 = v
          ∧ t.tlb = s.tlb ++ .cr4Write s.cr4 v
            :: (if s.par.procFamily = .p4XeonP6
                  ∧ (v.getLsbD 4 ≠ s.cr4.getLsbD 4 ∨ v.getLsbD 5 ≠ s.cr4.getLsbD 5) then [.flushAll] else [])
          ∧ t.flags.ac = s.flags.ac
          ∧ t = { s with cr4 := t.cr4, tlb := t.tlb, pc := s.pcWrap (s.pc + BitVec.ofNat 64 i.size), flags := t.flags,
                         intShadow := false, draws := t.draws }
          ∧ sameMemory s t)

/-- Row 40 (R237, R246): a 1 in a reserved bit of CR8 raises #GP(0); every other value is stored, without a TLB event. -/
def Obligations.WriteControl8 : Prop :=
  ∀ (s : State) (p : Prefixes) (mod : BitVec 2) (rm : BitVec 3),
    p.lock = false → s.mode ≠ .v86 → s.cpl = 0 →
    (s.reg (p.rmNum rm) &&& s.par.cr8Rsvd ≠ 0 → exec (.movCr8R64 p mod rm) s = raises s (.gp s.zeroCode))
      ∧ (s.reg (p.rmNum rm) &&& s.par.cr8Rsvd = 0 →
        ∃ t, exec (.movCr8R64 p mod rm) s = .next t
          ∧ t.cr8 = s.reg (p.rmNum rm)
          ∧ t.flags.ac = s.flags.ac
          ∧ t = { s with cr8 := t.cr8, pc := s.pcWrap (s.pc + BitVec.ofNat 64 (Instr.movCr8R64 p mod rm).size),
                         flags := t.flags, intShadow := false, draws := t.draws }
          ∧ sameMemory s t)

/-! ## Debug registers -/

/-- Rows 41 and 42 (R272, R273, R276): the register takes the debug register, DR4 and DR5 being DR6 and DR7 while DE = 0;
the six flags are undefined (R280), so nothing is said of them. -/
def Obligations.ReadDebug : Prop :=
  ∀ (s : State) (p : Prefixes) (mod : BitVec 2) (dr rm : BitVec 3) (w : Width) (i : Instr) (v : Word),
    (w, i) ∈ [(.b32, .movR32Dr p mod dr rm), (.b64, .movR64Dr p mod dr rm)] →
    (dr, v) ∈ [((0 : BitVec 3), s.dr0), (1, s.dr1), (2, s.dr2), (3, s.dr3), (4, s.dr6), (5, s.dr7), (6, s.dr6),
      (7, s.dr7)] →
    p.lock = false → s.mode ≠ .v86 → p.rexR = false →
    (dr = 4 ∨ dr = 5 → s.cr4.getLsbD 3 = false ∨ s.noCr4 = true) → s.cpl = 0 → s.dr7.getLsbD 13 = false →
    ∃ t, exec i s = .next t
      ∧ registerWritten s t w (p.rmNum rm) false v
      ∧ t.flags.ac = s.flags.ac
      ∧ t = { s with x := t.x, pc := s.pcWrap (s.pc + BitVec.ofNat 64 i.size), flags := t.flags, intShadow := false,
                     draws := t.draws }
      ∧ sameMemory s t

/-- Rows 43 and 44 (R274, R275, R276, R282): the debug register takes the value, DR4 and DR5 being DR6 and DR7 while DE = 0;
a 1 in bits 63:32 for DR6 or DR7 raises #GP(0) and stores nothing. That a 32-bit write leaves bits 63:32 zero is the model's
reading (log 21). -/
def Obligations.WriteDebug : Prop :=
  ∀ (s : State) (p : Prefixes) (mod : BitVec 2) (dr rm : BitVec 3) (i : Instr) (v : Word) (target : Nat),
    (i, v) ∈ [(.movDrR32 p mod dr rm, ((s.reg (p.rmNum rm)).setWidth 32).setWidth 64),
      (.movDrR64 p mod dr rm, s.reg (p.rmNum rm))] →
    target = (if dr = 4 then 6 else if dr = 5 then 7 else dr.toNat) →
    p.lock = false → s.mode ≠ .v86 → p.rexR = false →
    (dr = 4 ∨ dr = 5 → s.cr4.getLsbD 3 = false ∨ s.noCr4 = true) → s.cpl = 0 → s.dr7.getLsbD 13 = false →
    (6 ≤ target ∧ v.extractLsb' 32 32 ≠ 0 → exec i s = raises s (.gp s.zeroCode))
      ∧ (¬ (6 ≤ target ∧ v.extractLsb' 32 32 ≠ 0) →
        ∃ t, exec i s = .next t
          ∧ t.flags.ac = s.flags.ac
          ∧ t = { s with
                  dr0 := if target = 0 then v else s.dr0
                  dr1 := if target = 1 then v else s.dr1
                  dr2 := if target = 2 then v else s.dr2
                  dr3 := if target = 3 then v else s.dr3
                  dr6 := if target = 6 then v else s.dr6
                  dr7 := if target = 7 then v else s.dr7
                  pc := s.pcWrap (s.pc + BitVec.ofNat 64 i.size)
                  flags := t.flags
                  intShadow := false
                  draws := t.draws }
          ∧ sameMemory s t)

/-- The common checks of MOV to and from debug registers that fail outside V86, in their order (R277, R279): #UD for REX.R
and for DR4 or DR5 while DE = 1, #GP(0) for a privilege level other than 0, #DB while DR7.GD = 1. -/
def Obligations.DebugFaults : Prop :=
  ∀ (s : State) (p : Prefixes) (mod : BitVec 2) (dr rm : BitVec 3) (i : Instr),
    i ∈ [.movR32Dr p mod dr rm, .movR64Dr p mod dr rm, .movDrR32 p mod dr rm, .movDrR64 p mod dr rm] →
    p.lock = false → s.mode ≠ .v86 →
    let ud := p.rexR = true ∨ ((dr = 4 ∨ dr = 5) ∧ s.cr4.getLsbD 3 = true ∧ s.noCr4 = false)
    (ud → exec i s = raises s .ud)
      ∧ (¬ ud → s.cpl ≠ 0 → exec i s = raises s (.gp s.zeroCode))
      ∧ (¬ ud → s.cpl = 0 → s.dr7.getLsbD 13 = true → exec i s = raises s .db)

/-! ## Exceptions -/

/-- The LOCK prefix raises #UD on every MOV-Move instruction, in every mode, whatever its operands: R163 for rows 1 to 10
and 15 to 34, R220 for rows 11 to 14, R106 for all. -/
def Obligations.LockOnMoves : Prop :=
  ∀ (s : State) (i : Instr), i.prefixes.lock = true → i.isMove = true → exec i s = raises s .ud

/-- A MOV to or from a control or debug register: in V86 it raises #GP(0), whatever its fields (R249, R278), and with a LOCK
prefix #UD or #GP(0) (R307); elsewhere a LOCK prefix raises #UD (R106). -/
def Obligations.SystemMovesUnderLockAndV86 : Prop :=
  ∀ (s : State) (i : Instr), i.isMove = false →
    (i.prefixes.lock = true → s.mode ≠ .v86 → exec i s = raises s .ud)
      ∧ (i.prefixes.lock = false → s.mode = .v86 → exec i s = raises s (.gp (some 0)))
      ∧ (i.prefixes.lock = true → s.mode = .v86 →
        exec i s = raises s .ud ∨ exec i s = raises s (.gp (some 0)))

/-- Every exception is raised before anything is written: its state is the state before the instruction, int_shadow cleared
(R311). -/
def Obligations.ExceptionsArePrecise : Prop :=
  ∀ (s : State) (i : Instr) (f : Fault), exec i s = .fault f → ∃ e, f = .exception e { s with intShadow := false }

/-- Which forms raise which exceptions (R310), with the one cause of #NP (R305), of #PF (R306) and of #DB (R309) and the
selector codes of R303 and R304: forms without a data access and no segment load raise #UD only, forms with one besides only
the exceptions of that access; loads of a segment register besides, outside REAL and V86, #GP(0) for a NULL SS, #GP, and #SS
or #NP for a descriptor not present, with the selector they read (its code: log 30); MOV-CR #UD and #GP(0), MOV-DR #DB too;
in REAL there is no #PF, #AC or #NP (R308). -/
def Obligations.ExceptionsByForm : Prop :=
  ∀ (s u : State) (i : Instr) (e : Exception), exec i s = .fault (.exception e u) →
    let segmentLoad := ∃ p g rm, i = .movSregRm16 p g rm ∨ i = .movSregRm64 p g rm
    let ofAccess :=
      s.dataAccess i ≠ none
        ∧ (e = .gp s.zeroCode ∨ e = .ss s.zeroCode ∨ (s.mode ≠ .real ∧ (e = .ac ∨ ∃ code, e = .pf code)))
    (i.isMove = true → ¬ segmentLoad → s.dataAccess i = none → e = .ud)
      ∧ (i.isMove = true → ¬ segmentLoad → e = .ud ∨ ofAccess)
      ∧ (∀ p g rm, i = .movSregRm16 p g rm ∨ i = .movSregRm64 p g rm →
        e = .ud ∨ ofAccess
          ∨ ((s.mode = .prot ∨ s.mode = .compat ∨ s.mode = .long64)
            ∧ ∃ sel, selectorSource s p i.size rm sel
              ∧ ((g = 2 ∧ sel.toNat < 4 ∧ e = .gp (some 0))
                ∨ (4 ≤ sel.toNat ∧ e = .gp (some (sel &&& 0xFFFC)))
                ∨ (4 ≤ sel.toNat ∧ (∃ d, s.descFetch sel = .desc d ∧ d.present = false)
                  ∧ e = if g = 2 then .ss (some (sel &&& 0xFFFC)) else .np (sel &&& 0xFFFC)))))
      ∧ (∀ p mod cr rm,
        i ∈ [.movR32Cr p mod cr rm, .movR64Cr p mod cr rm, .movR64Cr8 p mod rm, .movCrR32 p mod cr rm,
          .movCrR64 p mod cr rm, .movCr8R64 p mod rm] →
        e = .ud ∨ e = .gp s.zeroCode)
      ∧ (i.isMove = false → e = .ud ∨ e = .gp s.zeroCode ∨ (e = .db ∧ s.dr7.getLsbD 13 = true))
      ∧ (s.mode = .real → e = .ud ∨ e = .gp none ∨ e = .ss none ∨ e = .db)

/-! ## The whole machine -/

/-- When the bytes at pc decode to an instruction, and neither the end of the text nor an interrupt comes first, a step is
the instruction's meaning; the environment's offer of this boundary is consumed (R300; the offers are the model's, log 11). -/
def Obligations.StepRunsDecoded : Prop :=
  ∀ (s : State) (bytes : List Byte) (i : Instr) (rest : List Byte),
    s.atEnd = false → s.interruptTaken = false → s.fetch = some bytes → decode s.ctx bytes = .ok (i, rest) →
    step s = exec i { s with offers := s.offers.tail }

/-- When pc stands at an instruction's bytes in the program text, a step is that instruction's meaning (R101, R342). -/
def Obligations.StepRunsTheText : Prop :=
  ∀ (s : State) (before after : List Byte) (i : Instr),
    s.text.bytes = before ++ encode i ++ after → (s.pcWrap (s.pc - s.text.start)).toNat = before.length →
    i.wf s.ctx = true → s.offers.head? ≠ some true ∨ s.intShadow = true →
    step s = exec i { s with offers := s.offers.tail }

/-- An interrupt is taken at a boundary exactly when one is offered and int_shadow is 0 (R318), and a run ends normally
exactly when pc is just past the text (R345). The offers are a list of the model's (log 11); the end is its refusal
endOfText, and comes before an offered interrupt (log 10); where pc lies outside the text otherwise, an offered interrupt comes
first, the model's choice too (log 43). -/
def Obligations.Boundaries : Prop :=
  ∀ s : State,
    (s.atEnd = false → (step s = .fault (.interrupted s) ↔ s.offers.head? = some true ∧ s.intShadow = false))
      ∧ (step s = .refused .endOfText ↔ (s.pcWrap (s.pc - s.text.start)).toNat = s.text.bytes.length)

/-- A completed instruction moves pc past itself, modulo the width of the instruction pointer; an exception leaves pc
(R29). -/
def Obligations.ProgramCounter : Prop :=
  ∀ (s t : State) (i : Instr),
    (exec i s = .next t →
        t.pc.toNat = (s.pc.toNat + i.size) %
          (if s.mode = .long64 then 2 ^ 64
            else if s.mode = .real ∨ s.mode = .v86 ∨ s.csD = .bits16 then 2 ^ 16 else 2 ^ 32))
      ∧ ∀ e, exec i s = .fault (.exception e t) → t.pc = s.pc

/-- A completed MOV-Move instruction changes no flag and no control or debug register (R30, R165, R222), and segment
registers only if it is a load of one. -/
def Obligations.MoveFrame : Prop :=
  ∀ (s t : State) (i : Instr), i.isMove = true → exec i s = .next t →
    t = { s with x := t.x, pc := t.pc, seg := t.seg, mem := t.mem, intShadow := t.intShadow, draws := t.draws }
      ∧ ((∀ p g rm, i ≠ .movSregRm16 p g rm ∧ i ≠ .movSregRm64 p g rm) → t.seg = s.seg)

/-- Every byte of memory outside the one data access of an instruction, and every byte at all of an instruction that stores
nothing, reads after it as before (R80, R165). -/
def Obligations.MemoryFrame : Prop :=
  ∀ (s t : State) (i : Instr) (a : Nat), Memory.wf s.mem → exec i s = .next t →
    (∀ d phys k, s.dataAccess i = some d → d.acc = .write → s.access d.seg d.off d.n .write = .ok phys → k < d.n →
      a ≠ s.byteAddr phys k) →
    t.mem.read a = s.mem.read a

/-- After a completed instruction int_shadow is set only if the instruction loaded SS (R53, R165, R218). -/
def Obligations.ShadowOnlyAfterStackLoad : Prop :=
  ∀ (s t : State) (i : Instr), exec i s = .next t → t.intShadow = true →
    ∃ p rm, i = .movSregRm16 p 2 rm ∨ i = .movSregRm64 p 2 rm

/-- No step changes the mode, the privilege level, CS and its default size, the program text or the parameters (R36, R37,
R52, R342). -/
def Obligations.StepKeepsMode : Prop :=
  ∀ s t : State, step s = .next t →
    t.mode = s.mode ∧ t.cpl = s.cpl ∧ t.csD = s.csD ∧ t.seg.cs = s.seg.cs ∧ t.text = s.text ∧ t.par = s.par

/-- Outside LONG64 no step changes bits 63:32 of a general register or any of the registers 8 to 15 (R27). -/
def Obligations.NarrowRegisters : Prop :=
  ∀ (s t : State) (j : BitVec 4), s.mode ≠ .long64 → step s = .next t →
    (t.reg j).extractLsb' 32 32 = (s.reg j).extractLsb' 32 32 ∧ (8 ≤ j.toNat → t.reg j = s.reg j)

/-- At a privilege level other than 0 no step changes a control or debug register, the TLB or a flag (R323, R324). -/
def Obligations.OnlyLevel0 : Prop :=
  ∀ s t : State, s.cpl ≠ 0 → step s = .next t →
    t.cr0 = s.cr0 ∧ t.cr2 = s.cr2 ∧ t.cr3 = s.cr3 ∧ t.cr4 = s.cr4 ∧ t.cr8 = s.cr8 ∧ t.dr0 = s.dr0 ∧ t.dr1 = s.dr1
      ∧ t.dr2 = s.dr2 ∧ t.dr3 = s.dr3 ∧ t.dr6 = s.dr6 ∧ t.dr7 = s.dr7 ∧ t.tlb = s.tlb ∧ t.flags = s.flags

/-- Every step from a state with memory in canonical form keeps the form (the form is the model's, log 3). -/
def Obligations.StepKeepsMemoryForm : Prop :=
  ∀ s t : State, Memory.wf s.mem → step s = .next t → Memory.wf t.mem

/-- Every step from a legal state leads to a legal state: the mode constraints (R6, R52), the privilege level of the mode
(R36, R37), CR0 no invalid combination, ET set on P4_XEON_P6, reserved bits and the high bits of CR3, DR6 and DR7 zero (R9,
R42, R43, R45, R50, R57). -/
def Obligations.StepKeepsLegal : Prop :=
  ∀ s t : State, s.legal = true → step s = .next t → t.legal = true

/-- The state after reset is an admitted launch state (R57, R340); its values are the family's (R56, marked general knowledge
there; PRESUMED, log 1), EAX and EDX are the model's choice (log 2), the program is none (log 8). -/
def Obligations.ResetState : Prop :=
  State.reset.launch = true
    ∧ State.reset.mode = .real ∧ State.reset.cpl = 0 ∧ State.reset.pc = 0xFFF0 ∧ State.reset.cr0 = 0x60000010
    ∧ State.reset.dr6 = 0xFFFF0FF0 ∧ State.reset.dr7 = 0x400 ∧ State.reset.seg.cs.sel = 0xF000
    ∧ State.reset.seg.cs.hidden.base = 0xFFFF0000 ∧ State.reset.intShadow = false
    ∧ step State.reset = .refused .endOfText

end
end

