-- ==== Sys2Proof/Laws/Memory.lean ====
section
/-! SUPPORT. The laws of memory: what a read after a write gives, and that every write keeps the canonical form. -/

namespace Sys2Proof.Machine

theorem Memory.read_of_forall_lt (m : Memory) (a : Nat) (h : ∀ c ∈ m, a < c.1) : m.read a = unlistedByte := by
  induction m with
  | nil => rfl
  | cons c rest ih =>
    have hc := h c (List.mem_cons_self ..)
    simp only [Memory.read, Nat.ne_of_gt hc, if_false]
    exact ih fun d hd => h d (List.mem_cons_of_mem _ hd)

/-- Reading after a write: the byte written, at its address, and the old byte elsewhere. -/
theorem Memory.read_write (m : Memory) (a b : Nat) (v : Byte) (h : m.Pairwise (fun c d => c.1 < d.1)) :
    (Memory.write m a v).read b = if b = a then v else m.read b := by
  induction m with
  | nil => by_cases hv : v = unlistedByte <;> simp [Memory.write, Memory.read, hv, eq_comm]
  | cons c rest ih =>
    obtain ⟨k, w⟩ := c
    have hr := ih (List.Pairwise.of_cons h)
    have hk : ∀ c ∈ rest, k < c.1 := fun c hc => List.rel_of_pairwise_cons h hc
    rcases Nat.lt_trichotomy a k with hlt | rfl | hgt
    · by_cases hv : v = unlistedByte
      · by_cases hb : b = a
        · subst hb
          simp only [Memory.write, hlt, hv, if_true]
          rw [Memory.read_of_forall_lt]
          intro c hc
          rcases List.mem_cons.1 hc with rfl | hc
          · exact hlt
          · exact Nat.lt_trans hlt (hk c hc)
        · simp [Memory.write, hlt, hv, hb]
      · by_cases hb : b = a
        · simp [Memory.write, Memory.read, hlt, hv, hb]
        · simp [Memory.write, Memory.read, hlt, hv, hb, Ne.symm hb]
    · by_cases hv : v = unlistedByte
      · by_cases hb : b = a
        · subst hb
          simp only [Memory.write, Nat.lt_irrefl, hv, if_true, if_false]
          exact Memory.read_of_forall_lt rest b hk
        · simp [Memory.write, Memory.read, hv, hb, Ne.symm hb]
      · by_cases hb : b = a
        · simp [Memory.write, Memory.read, hv, hb]
        · simp [Memory.write, Memory.read, hv, hb, Ne.symm hb]
    · have h1 : ¬ a < k := by omega
      have h2 : ¬ a = k := by omega
      simp only [Memory.write, h1, h2, if_false, Memory.read]
      by_cases hb : k = b
      · have : ¬ b = a := by omega
        simp [hb, this]
      · simp [hb, hr]

theorem Memory.mem_write (m : Memory) (a : Nat) (v : Byte) (c : Host.Cell) (h : c ∈ Memory.write m a v) :
    (c = (a, v) ∧ v ≠ unlistedByte) ∨ c ∈ m := by
  induction m with
  | nil =>
    by_cases hv : v = unlistedByte <;> simp [Memory.write, hv] at h
    exact .inl ⟨h, hv⟩
  | cons d rest ih =>
    obtain ⟨k, w⟩ := d
    simp only [Memory.write] at h
    split at h
    · split at h
      · exact .inr h
      · rcases List.mem_cons.1 h with rfl | h
        · exact .inl ⟨rfl, ‹_›⟩
        · exact .inr h
    · split at h
      · split at h
        · exact .inr (List.mem_cons_of_mem _ h)
        · rcases List.mem_cons.1 h with rfl | h
          · exact .inl ⟨rfl, ‹_›⟩
          · exact .inr (List.mem_cons_of_mem _ h)
      · rcases List.mem_cons.1 h with rfl | h
        · exact .inr (List.mem_cons_self ..)
        · exact (ih h).imp id (List.mem_cons_of_mem _)

/-- A write keeps the canonical form. -/
theorem Memory.write_wf (m : Memory) (a : Nat) (v : Byte) (h : Memory.wf m) : Memory.wf (Memory.write m a v) := by
  refine ⟨?_, fun c hc => (Memory.mem_write m a v c hc).elim (fun e => by rw [e.1]; exact e.2) (h.2 c)⟩
  obtain ⟨hp, -⟩ := h
  induction m with
  | nil => by_cases hv : v = unlistedByte <;> simp [Memory.write, hv]
  | cons d rest ih =>
    obtain ⟨k, w⟩ := d
    have hk : ∀ c ∈ rest, k < c.1 := fun c hc => List.rel_of_pairwise_cons hp hc
    have hrest := List.Pairwise.of_cons hp
    simp only [Memory.write]
    split
    · split
      · exact hp
      · refine List.pairwise_cons.2 ⟨fun c hc => ?_, hp⟩
        rcases List.mem_cons.1 hc with rfl | hc
        · assumption
        · have := hk c hc; simp only; omega
    · split
      · split
        · exact hrest
        · subst_vars; exact List.pairwise_cons.2 ⟨hk, hrest⟩
      · refine List.pairwise_cons.2 ⟨fun c hc => ?_, ih hrest⟩
        rcases Memory.mem_write rest a v c hc with ⟨rfl, -⟩ | hc
        · simp only; omega
        · exact hk c hc

/-- Many writes keep the canonical form. -/
theorem Memory.writeAll_wf (l : List (Nat × Byte)) (m : Memory) (h : Memory.wf m) :
    Memory.wf (Memory.writeAll m l) := by
  induction l generalizing m with
  | nil => exact h
  | cons p rest ih => exact ih _ (Memory.write_wf m p.1 p.2 h)

/-- An address that none of the writes names keeps its byte. -/
theorem Memory.read_writeAll_of_not_mem (l : List (Nat × Byte)) (m : Memory) (b : Nat) (h : Memory.wf m)
    (hb : b ∉ l.map Prod.fst) : (Memory.writeAll m l).read b = m.read b := by
  induction l generalizing m with
  | nil => rfl
  | cons p rest ih =>
    simp only [List.map_cons, List.mem_cons, not_or] at hb
    show (Memory.writeAll (Memory.write m p.1 p.2) rest).read b = _
    rw [ih _ (Memory.write_wf m p.1 p.2 h) hb.2, Memory.read_write m p.1 b p.2 h.1, if_neg hb.1]

/-- An address that one of the writes names, each address named once, holds the byte written there. -/
theorem Memory.read_writeAll_of_mem (l : List (Nat × Byte)) (m : Memory) (p : Nat × Byte) (h : Memory.wf m)
    (hn : (l.map Prod.fst).Nodup) (hp : p ∈ l) : (Memory.writeAll m l).read p.1 = p.2 := by
  induction l generalizing m with
  | nil => cases hp
  | cons q rest ih =>
    simp only [List.map_cons, List.nodup_cons] at hn
    show (Memory.writeAll (Memory.write m q.1 q.2) rest).read p.1 = _
    rcases List.mem_cons.1 hp with rfl | hp
    · rw [Memory.read_writeAll_of_not_mem rest _ p.1 (Memory.write_wf m _ _ h) hn.1, Memory.read_write m _ _ _ h.1,
        if_pos rfl]
    · exact ih _ (Memory.write_wf m q.1 q.2 h) hn.2 hp

/-- Memory after reset has the canonical form. -/
theorem State.reset_mem_wf : Memory.wf State.reset.mem := by
  refine ⟨List.Pairwise.nil, ?_⟩
  intro c hc
  cases hc

end Sys2Proof.Machine
end

