-- ==== Sys2Proof/Laws/State.lean ====
section
/-! SUPPORT. For each update of the state, what every field it does not touch is after it. -/

namespace Sys2Proof.Machine

/-! ## What each update is -/

theorem State.regWrite_eq_setReg (s : State) (w : Width) (i : BitVec 4) (rex : Bool) (v : Word) :
    ∃ j u, s.regWrite w i rex v = s.setReg j u := by
  cases w
  · show ∃ j u, (if highByte i rex = true then _ else _) = _
    split
    · exact ⟨_, _, rfl⟩
    · exact ⟨_, _, rfl⟩
  · exact ⟨_, _, rfl⟩
  · show ∃ j u, (if s.mode = .long64 then _ else _) = _
    split
    · exact ⟨_, _, rfl⟩
    · exact ⟨_, _, rfl⟩
  · exact ⟨_, _, rfl⟩

theorem State.selToReg32_eq (s : State) (i : BitVec 4) (rex : Bool) (sel : BitVec 16) :
    ∃ j u d, s.selToReg32 i rex sel = { s.setReg j u with draws := d } := by
  unfold State.selToReg32
  split
  · obtain ⟨j, u, h⟩ := s.regWrite_eq_setReg .b32 i rex ((Config.draw16 s.draws ++ sel).setWidth 64)
    exact ⟨j, u, s.draws + 1, by rw [h]⟩
  · obtain ⟨j, u, h⟩ := s.regWrite_eq_setReg .b32 i rex (sel.setWidth 64)
    exact ⟨j, u, s.draws, by rw [h]; rfl⟩

theorem State.completeLoad_eq (s : State) (r : Sreg) (len : Nat) :
    ∃ b d, s.completeLoad r len = { s.complete len with intShadow := b, draws := d } := by
  unfold State.completeLoad
  split
  · split
    · exact ⟨_, _, rfl⟩
    · exact ⟨true, s.draws, rfl⟩
  · exact ⟨false, s.draws, rfl⟩

theorem State.drStore_eq (s : State) (i : BitVec 3) (v : Word) :
    ∃ a b c d e f, s.drStore i v = { s with dr0 := a, dr1 := b, dr2 := c, dr3 := d, dr6 := e, dr7 := f } := by
  unfold State.drStore
  split <;> exact ⟨_, _, _, _, _, _, rfl⟩

/-! ## setReg -/

@[simp] theorem State.setReg_pc (s : State) (i : BitVec 4) (v : Word) :
    (s.setReg i v).pc = s.pc := rfl
@[simp] theorem State.setReg_flags (s : State) (i : BitVec 4) (v : Word) :
    (s.setReg i v).flags = s.flags := rfl
@[simp] theorem State.setReg_seg (s : State) (i : BitVec 4) (v : Word) :
    (s.setReg i v).seg = s.seg := rfl
@[simp] theorem State.setReg_csD (s : State) (i : BitVec 4) (v : Word) :
    (s.setReg i v).csD = s.csD := rfl
@[simp] theorem State.setReg_cpl (s : State) (i : BitVec 4) (v : Word) :
    (s.setReg i v).cpl = s.cpl := rfl
@[simp] theorem State.setReg_cr0 (s : State) (i : BitVec 4) (v : Word) :
    (s.setReg i v).cr0 = s.cr0 := rfl
@[simp] theorem State.setReg_cr2 (s : State) (i : BitVec 4) (v : Word) :
    (s.setReg i v).cr2 = s.cr2 := rfl
@[simp] theorem State.setReg_cr3 (s : State) (i : BitVec 4) (v : Word) :
    (s.setReg i v).cr3 = s.cr3 := rfl
@[simp] theorem State.setReg_cr4 (s : State) (i : BitVec 4) (v : Word) :
    (s.setReg i v).cr4 = s.cr4 := rfl
@[simp] theorem State.setReg_cr8 (s : State) (i : BitVec 4) (v : Word) :
    (s.setReg i v).cr8 = s.cr8 := rfl
@[simp] theorem State.setReg_dr0 (s : State) (i : BitVec 4) (v : Word) :
    (s.setReg i v).dr0 = s.dr0 := rfl
@[simp] theorem State.setReg_dr1 (s : State) (i : BitVec 4) (v : Word) :
    (s.setReg i v).dr1 = s.dr1 := rfl
@[simp] theorem State.setReg_dr2 (s : State) (i : BitVec 4) (v : Word) :
    (s.setReg i v).dr2 = s.dr2 := rfl
@[simp] theorem State.setReg_dr3 (s : State) (i : BitVec 4) (v : Word) :
    (s.setReg i v).dr3 = s.dr3 := rfl
@[simp] theorem State.setReg_dr6 (s : State) (i : BitVec 4) (v : Word) :
    (s.setReg i v).dr6 = s.dr6 := rfl
@[simp] theorem State.setReg_dr7 (s : State) (i : BitVec 4) (v : Word) :
    (s.setReg i v).dr7 = s.dr7 := rfl
@[simp] theorem State.setReg_mode (s : State) (i : BitVec 4) (v : Word) :
    (s.setReg i v).mode = s.mode := rfl
@[simp] theorem State.setReg_intShadow (s : State) (i : BitVec 4) (v : Word) :
    (s.setReg i v).intShadow = s.intShadow := rfl
@[simp] theorem State.setReg_tlb (s : State) (i : BitVec 4) (v : Word) :
    (s.setReg i v).tlb = s.tlb := rfl
@[simp] theorem State.setReg_mem (s : State) (i : BitVec 4) (v : Word) :
    (s.setReg i v).mem = s.mem := rfl
@[simp] theorem State.setReg_text (s : State) (i : BitVec 4) (v : Word) :
    (s.setReg i v).text = s.text := rfl
@[simp] theorem State.setReg_par (s : State) (i : BitVec 4) (v : Word) :
    (s.setReg i v).par = s.par := rfl
@[simp] theorem State.setReg_offers (s : State) (i : BitVec 4) (v : Word) :
    (s.setReg i v).offers = s.offers := rfl
@[simp] theorem State.setReg_draws (s : State) (i : BitVec 4) (v : Word) :
    (s.setReg i v).draws = s.draws := rfl

/-! ## regWrite -/

@[simp] theorem State.regWrite_pc (s : State) (w : Width) (i : BitVec 4) (rex : Bool) (v : Word) :
    (s.regWrite w i rex v).pc = s.pc := by
  obtain ⟨_, _, h⟩ := s.regWrite_eq_setReg w i rex v; rw [h]; rfl
@[simp] theorem State.regWrite_flags (s : State) (w : Width) (i : BitVec 4) (rex : Bool) (v : Word) :
    (s.regWrite w i rex v).flags = s.flags := by
  obtain ⟨_, _, h⟩ := s.regWrite_eq_setReg w i rex v; rw [h]; rfl
@[simp] theorem State.regWrite_seg (s : State) (w : Width) (i : BitVec 4) (rex : Bool) (v : Word) :
    (s.regWrite w i rex v).seg = s.seg := by
  obtain ⟨_, _, h⟩ := s.regWrite_eq_setReg w i rex v; rw [h]; rfl
@[simp] theorem State.regWrite_csD (s : State) (w : Width) (i : BitVec 4) (rex : Bool) (v : Word) :
    (s.regWrite w i rex v).csD = s.csD := by
  obtain ⟨_, _, h⟩ := s.regWrite_eq_setReg w i rex v; rw [h]; rfl
@[simp] theorem State.regWrite_cpl (s : State) (w : Width) (i : BitVec 4) (rex : Bool) (v : Word) :
    (s.regWrite w i rex v).cpl = s.cpl := by
  obtain ⟨_, _, h⟩ := s.regWrite_eq_setReg w i rex v; rw [h]; rfl
@[simp] theorem State.regWrite_cr0 (s : State) (w : Width) (i : BitVec 4) (rex : Bool) (v : Word) :
    (s.regWrite w i rex v).cr0 = s.cr0 := by
  obtain ⟨_, _, h⟩ := s.regWrite_eq_setReg w i rex v; rw [h]; rfl
@[simp] theorem State.regWrite_cr2 (s : State) (w : Width) (i : BitVec 4) (rex : Bool) (v : Word) :
    (s.regWrite w i rex v).cr2 = s.cr2 := by
  obtain ⟨_, _, h⟩ := s.regWrite_eq_setReg w i rex v; rw [h]; rfl
@[simp] theorem State.regWrite_cr3 (s : State) (w : Width) (i : BitVec 4) (rex : Bool) (v : Word) :
    (s.regWrite w i rex v).cr3 = s.cr3 := by
  obtain ⟨_, _, h⟩ := s.regWrite_eq_setReg w i rex v; rw [h]; rfl
@[simp] theorem State.regWrite_cr4 (s : State) (w : Width) (i : BitVec 4) (rex : Bool) (v : Word) :
    (s.regWrite w i rex v).cr4 = s.cr4 := by
  obtain ⟨_, _, h⟩ := s.regWrite_eq_setReg w i rex v; rw [h]; rfl
@[simp] theorem State.regWrite_cr8 (s : State) (w : Width) (i : BitVec 4) (rex : Bool) (v : Word) :
    (s.regWrite w i rex v).cr8 = s.cr8 := by
  obtain ⟨_, _, h⟩ := s.regWrite_eq_setReg w i rex v; rw [h]; rfl
@[simp] theorem State.regWrite_dr0 (s : State) (w : Width) (i : BitVec 4) (rex : Bool) (v : Word) :
    (s.regWrite w i rex v).dr0 = s.dr0 := by
  obtain ⟨_, _, h⟩ := s.regWrite_eq_setReg w i rex v; rw [h]; rfl
@[simp] theorem State.regWrite_dr1 (s : State) (w : Width) (i : BitVec 4) (rex : Bool) (v : Word) :
    (s.regWrite w i rex v).dr1 = s.dr1 := by
  obtain ⟨_, _, h⟩ := s.regWrite_eq_setReg w i rex v; rw [h]; rfl
@[simp] theorem State.regWrite_dr2 (s : State) (w : Width) (i : BitVec 4) (rex : Bool) (v : Word) :
    (s.regWrite w i rex v).dr2 = s.dr2 := by
  obtain ⟨_, _, h⟩ := s.regWrite_eq_setReg w i rex v; rw [h]; rfl
@[simp] theorem State.regWrite_dr3 (s : State) (w : Width) (i : BitVec 4) (rex : Bool) (v : Word) :
    (s.regWrite w i rex v).dr3 = s.dr3 := by
  obtain ⟨_, _, h⟩ := s.regWrite_eq_setReg w i rex v; rw [h]; rfl
@[simp] theorem State.regWrite_dr6 (s : State) (w : Width) (i : BitVec 4) (rex : Bool) (v : Word) :
    (s.regWrite w i rex v).dr6 = s.dr6 := by
  obtain ⟨_, _, h⟩ := s.regWrite_eq_setReg w i rex v; rw [h]; rfl
@[simp] theorem State.regWrite_dr7 (s : State) (w : Width) (i : BitVec 4) (rex : Bool) (v : Word) :
    (s.regWrite w i rex v).dr7 = s.dr7 := by
  obtain ⟨_, _, h⟩ := s.regWrite_eq_setReg w i rex v; rw [h]; rfl
@[simp] theorem State.regWrite_mode (s : State) (w : Width) (i : BitVec 4) (rex : Bool) (v : Word) :
    (s.regWrite w i rex v).mode = s.mode := by
  obtain ⟨_, _, h⟩ := s.regWrite_eq_setReg w i rex v; rw [h]; rfl
@[simp] theorem State.regWrite_intShadow (s : State) (w : Width) (i : BitVec 4) (rex : Bool) (v : Word) :
    (s.regWrite w i rex v).intShadow = s.intShadow := by
  obtain ⟨_, _, h⟩ := s.regWrite_eq_setReg w i rex v; rw [h]; rfl
@[simp] theorem State.regWrite_tlb (s : State) (w : Width) (i : BitVec 4) (rex : Bool) (v : Word) :
    (s.regWrite w i rex v).tlb = s.tlb := by
  obtain ⟨_, _, h⟩ := s.regWrite_eq_setReg w i rex v; rw [h]; rfl
@[simp] theorem State.regWrite_mem (s : State) (w : Width) (i : BitVec 4) (rex : Bool) (v : Word) :
    (s.regWrite w i rex v).mem = s.mem := by
  obtain ⟨_, _, h⟩ := s.regWrite_eq_setReg w i rex v; rw [h]; rfl
@[simp] theorem State.regWrite_text (s : State) (w : Width) (i : BitVec 4) (rex : Bool) (v : Word) :
    (s.regWrite w i rex v).text = s.text := by
  obtain ⟨_, _, h⟩ := s.regWrite_eq_setReg w i rex v; rw [h]; rfl
@[simp] theorem State.regWrite_par (s : State) (w : Width) (i : BitVec 4) (rex : Bool) (v : Word) :
    (s.regWrite w i rex v).par = s.par := by
  obtain ⟨_, _, h⟩ := s.regWrite_eq_setReg w i rex v; rw [h]; rfl
@[simp] theorem State.regWrite_offers (s : State) (w : Width) (i : BitVec 4) (rex : Bool) (v : Word) :
    (s.regWrite w i rex v).offers = s.offers := by
  obtain ⟨_, _, h⟩ := s.regWrite_eq_setReg w i rex v; rw [h]; rfl
@[simp] theorem State.regWrite_draws (s : State) (w : Width) (i : BitVec 4) (rex : Bool) (v : Word) :
    (s.regWrite w i rex v).draws = s.draws := by
  obtain ⟨_, _, h⟩ := s.regWrite_eq_setReg w i rex v; rw [h]; rfl

/-! ## setSreg -/

@[simp] theorem State.setSreg_x (s : State) (r : Sreg) (v : SegReg) :
    (s.setSreg r v).x = s.x := by
  cases r <;> rfl
@[simp] theorem State.setSreg_pc (s : State) (r : Sreg) (v : SegReg) :
    (s.setSreg r v).pc = s.pc := by
  cases r <;> rfl
@[simp] theorem State.setSreg_flags (s : State) (r : Sreg) (v : SegReg) :
    (s.setSreg r v).flags = s.flags := by
  cases r <;> rfl
@[simp] theorem State.setSreg_csD (s : State) (r : Sreg) (v : SegReg) :
    (s.setSreg r v).csD = s.csD := by
  cases r <;> rfl
@[simp] theorem State.setSreg_cpl (s : State) (r : Sreg) (v : SegReg) :
    (s.setSreg r v).cpl = s.cpl := by
  cases r <;> rfl
@[simp] theorem State.setSreg_cr0 (s : State) (r : Sreg) (v : SegReg) :
    (s.setSreg r v).cr0 = s.cr0 := by
  cases r <;> rfl
@[simp] theorem State.setSreg_cr2 (s : State) (r : Sreg) (v : SegReg) :
    (s.setSreg r v).cr2 = s.cr2 := by
  cases r <;> rfl
@[simp] theorem State.setSreg_cr3 (s : State) (r : Sreg) (v : SegReg) :
    (s.setSreg r v).cr3 = s.cr3 := by
  cases r <;> rfl
@[simp] theorem State.setSreg_cr4 (s : State) (r : Sreg) (v : SegReg) :
    (s.setSreg r v).cr4 = s.cr4 := by
  cases r <;> rfl
@[simp] theorem State.setSreg_cr8 (s : State) (r : Sreg) (v : SegReg) :
    (s.setSreg r v).cr8 = s.cr8 := by
  cases r <;> rfl
@[simp] theorem State.setSreg_dr0 (s : State) (r : Sreg) (v : SegReg) :
    (s.setSreg r v).dr0 = s.dr0 := by
  cases r <;> rfl
@[simp] theorem State.setSreg_dr1 (s : State) (r : Sreg) (v : SegReg) :
    (s.setSreg r v).dr1 = s.dr1 := by
  cases r <;> rfl
@[simp] theorem State.setSreg_dr2 (s : State) (r : Sreg) (v : SegReg) :
    (s.setSreg r v).dr2 = s.dr2 := by
  cases r <;> rfl
@[simp] theorem State.setSreg_dr3 (s : State) (r : Sreg) (v : SegReg) :
    (s.setSreg r v).dr3 = s.dr3 := by
  cases r <;> rfl
@[simp] theorem State.setSreg_dr6 (s : State) (r : Sreg) (v : SegReg) :
    (s.setSreg r v).dr6 = s.dr6 := by
  cases r <;> rfl
@[simp] theorem State.setSreg_dr7 (s : State) (r : Sreg) (v : SegReg) :
    (s.setSreg r v).dr7 = s.dr7 := by
  cases r <;> rfl
@[simp] theorem State.setSreg_mode (s : State) (r : Sreg) (v : SegReg) :
    (s.setSreg r v).mode = s.mode := by
  cases r <;> rfl
@[simp] theorem State.setSreg_intShadow (s : State) (r : Sreg) (v : SegReg) :
    (s.setSreg r v).intShadow = s.intShadow := by
  cases r <;> rfl
@[simp] theorem State.setSreg_tlb (s : State) (r : Sreg) (v : SegReg) :
    (s.setSreg r v).tlb = s.tlb := by
  cases r <;> rfl
@[simp] theorem State.setSreg_mem (s : State) (r : Sreg) (v : SegReg) :
    (s.setSreg r v).mem = s.mem := by
  cases r <;> rfl
@[simp] theorem State.setSreg_text (s : State) (r : Sreg) (v : SegReg) :
    (s.setSreg r v).text = s.text := by
  cases r <;> rfl
@[simp] theorem State.setSreg_par (s : State) (r : Sreg) (v : SegReg) :
    (s.setSreg r v).par = s.par := by
  cases r <;> rfl
@[simp] theorem State.setSreg_offers (s : State) (r : Sreg) (v : SegReg) :
    (s.setSreg r v).offers = s.offers := by
  cases r <;> rfl
@[simp] theorem State.setSreg_draws (s : State) (r : Sreg) (v : SegReg) :
    (s.setSreg r v).draws = s.draws := by
  cases r <;> rfl

/-! ## loadNull -/

@[simp] theorem State.loadNull_x (s : State) (r : Sreg) (sel : BitVec 16) :
    (s.loadNull r sel).x = s.x := by
  cases r <;> rfl
@[simp] theorem State.loadNull_pc (s : State) (r : Sreg) (sel : BitVec 16) :
    (s.loadNull r sel).pc = s.pc := by
  cases r <;> rfl
@[simp] theorem State.loadNull_flags (s : State) (r : Sreg) (sel : BitVec 16) :
    (s.loadNull r sel).flags = s.flags := by
  cases r <;> rfl
@[simp] theorem State.loadNull_csD (s : State) (r : Sreg) (sel : BitVec 16) :
    (s.loadNull r sel).csD = s.csD := by
  cases r <;> rfl
@[simp] theorem State.loadNull_cpl (s : State) (r : Sreg) (sel : BitVec 16) :
    (s.loadNull r sel).cpl = s.cpl := by
  cases r <;> rfl
@[simp] theorem State.loadNull_cr0 (s : State) (r : Sreg) (sel : BitVec 16) :
    (s.loadNull r sel).cr0 = s.cr0 := by
  cases r <;> rfl
@[simp] theorem State.loadNull_cr2 (s : State) (r : Sreg) (sel : BitVec 16) :
    (s.loadNull r sel).cr2 = s.cr2 := by
  cases r <;> rfl
@[simp] theorem State.loadNull_cr3 (s : State) (r : Sreg) (sel : BitVec 16) :
    (s.loadNull r sel).cr3 = s.cr3 := by
  cases r <;> rfl
@[simp] theorem State.loadNull_cr4 (s : State) (r : Sreg) (sel : BitVec 16) :
    (s.loadNull r sel).cr4 = s.cr4 := by
  cases r <;> rfl
@[simp] theorem State.loadNull_cr8 (s : State) (r : Sreg) (sel : BitVec 16) :
    (s.loadNull r sel).cr8 = s.cr8 := by
  cases r <;> rfl
@[simp] theorem State.loadNull_dr0 (s : State) (r : Sreg) (sel : BitVec 16) :
    (s.loadNull r sel).dr0 = s.dr0 := by
  cases r <;> rfl
@[simp] theorem State.loadNull_dr1 (s : State) (r : Sreg) (sel : BitVec 16) :
    (s.loadNull r sel).dr1 = s.dr1 := by
  cases r <;> rfl
@[simp] theorem State.loadNull_dr2 (s : State) (r : Sreg) (sel : BitVec 16) :
    (s.loadNull r sel).dr2 = s.dr2 := by
  cases r <;> rfl
@[simp] theorem State.loadNull_dr3 (s : State) (r : Sreg) (sel : BitVec 16) :
    (s.loadNull r sel).dr3 = s.dr3 := by
  cases r <;> rfl
@[simp] theorem State.loadNull_dr6 (s : State) (r : Sreg) (sel : BitVec 16) :
    (s.loadNull r sel).dr6 = s.dr6 := by
  cases r <;> rfl
@[simp] theorem State.loadNull_dr7 (s : State) (r : Sreg) (sel : BitVec 16) :
    (s.loadNull r sel).dr7 = s.dr7 := by
  cases r <;> rfl
@[simp] theorem State.loadNull_mode (s : State) (r : Sreg) (sel : BitVec 16) :
    (s.loadNull r sel).mode = s.mode := by
  cases r <;> rfl
@[simp] theorem State.loadNull_intShadow (s : State) (r : Sreg) (sel : BitVec 16) :
    (s.loadNull r sel).intShadow = s.intShadow := by
  cases r <;> rfl
@[simp] theorem State.loadNull_tlb (s : State) (r : Sreg) (sel : BitVec 16) :
    (s.loadNull r sel).tlb = s.tlb := by
  cases r <;> rfl
@[simp] theorem State.loadNull_mem (s : State) (r : Sreg) (sel : BitVec 16) :
    (s.loadNull r sel).mem = s.mem := by
  cases r <;> rfl
@[simp] theorem State.loadNull_text (s : State) (r : Sreg) (sel : BitVec 16) :
    (s.loadNull r sel).text = s.text := by
  cases r <;> rfl
@[simp] theorem State.loadNull_par (s : State) (r : Sreg) (sel : BitVec 16) :
    (s.loadNull r sel).par = s.par := by
  cases r <;> rfl
@[simp] theorem State.loadNull_offers (s : State) (r : Sreg) (sel : BitVec 16) :
    (s.loadNull r sel).offers = s.offers := by
  cases r <;> rfl

/-! ## loadSegReal -/

@[simp] theorem State.loadSegReal_x (s : State) (r : Sreg) (sel : BitVec 16) :
    (s.loadSegReal r sel).x = s.x := by
  cases r <;> rfl
@[simp] theorem State.loadSegReal_pc (s : State) (r : Sreg) (sel : BitVec 16) :
    (s.loadSegReal r sel).pc = s.pc := by
  cases r <;> rfl
@[simp] theorem State.loadSegReal_flags (s : State) (r : Sreg) (sel : BitVec 16) :
    (s.loadSegReal r sel).flags = s.flags := by
  cases r <;> rfl
@[simp] theorem State.loadSegReal_csD (s : State) (r : Sreg) (sel : BitVec 16) :
    (s.loadSegReal r sel).csD = s.csD := by
  cases r <;> rfl
@[simp] theorem State.loadSegReal_cpl (s : State) (r : Sreg) (sel : BitVec 16) :
    (s.loadSegReal r sel).cpl = s.cpl := by
  cases r <;> rfl
@[simp] theorem State.loadSegReal_cr0 (s : State) (r : Sreg) (sel : BitVec 16) :
    (s.loadSegReal r sel).cr0 = s.cr0 := by
  cases r <;> rfl
@[simp] theorem State.loadSegReal_cr2 (s : State) (r : Sreg) (sel : BitVec 16) :
    (s.loadSegReal r sel).cr2 = s.cr2 := by
  cases r <;> rfl
@[simp] theorem State.loadSegReal_cr3 (s : State) (r : Sreg) (sel : BitVec 16) :
    (s.loadSegReal r sel).cr3 = s.cr3 := by
  cases r <;> rfl
@[simp] theorem State.loadSegReal_cr4 (s : State) (r : Sreg) (sel : BitVec 16) :
    (s.loadSegReal r sel).cr4 = s.cr4 := by
  cases r <;> rfl
@[simp] theorem State.loadSegReal_cr8 (s : State) (r : Sreg) (sel : BitVec 16) :
    (s.loadSegReal r sel).cr8 = s.cr8 := by
  cases r <;> rfl
@[simp] theorem State.loadSegReal_dr0 (s : State) (r : Sreg) (sel : BitVec 16) :
    (s.loadSegReal r sel).dr0 = s.dr0 := by
  cases r <;> rfl
@[simp] theorem State.loadSegReal_dr1 (s : State) (r : Sreg) (sel : BitVec 16) :
    (s.loadSegReal r sel).dr1 = s.dr1 := by
  cases r <;> rfl
@[simp] theorem State.loadSegReal_dr2 (s : State) (r : Sreg) (sel : BitVec 16) :
    (s.loadSegReal r sel).dr2 = s.dr2 := by
  cases r <;> rfl
@[simp] theorem State.loadSegReal_dr3 (s : State) (r : Sreg) (sel : BitVec 16) :
    (s.loadSegReal r sel).dr3 = s.dr3 := by
  cases r <;> rfl
@[simp] theorem State.loadSegReal_dr6 (s : State) (r : Sreg) (sel : BitVec 16) :
    (s.loadSegReal r sel).dr6 = s.dr6 := by
  cases r <;> rfl
@[simp] theorem State.loadSegReal_dr7 (s : State) (r : Sreg) (sel : BitVec 16) :
    (s.loadSegReal r sel).dr7 = s.dr7 := by
  cases r <;> rfl
@[simp] theorem State.loadSegReal_mode (s : State) (r : Sreg) (sel : BitVec 16) :
    (s.loadSegReal r sel).mode = s.mode := by
  cases r <;> rfl
@[simp] theorem State.loadSegReal_intShadow (s : State) (r : Sreg) (sel : BitVec 16) :
    (s.loadSegReal r sel).intShadow = s.intShadow := by
  cases r <;> rfl
@[simp] theorem State.loadSegReal_tlb (s : State) (r : Sreg) (sel : BitVec 16) :
    (s.loadSegReal r sel).tlb = s.tlb := by
  cases r <;> rfl
@[simp] theorem State.loadSegReal_mem (s : State) (r : Sreg) (sel : BitVec 16) :
    (s.loadSegReal r sel).mem = s.mem := by
  cases r <;> rfl
@[simp] theorem State.loadSegReal_text (s : State) (r : Sreg) (sel : BitVec 16) :
    (s.loadSegReal r sel).text = s.text := by
  cases r <;> rfl
@[simp] theorem State.loadSegReal_par (s : State) (r : Sreg) (sel : BitVec 16) :
    (s.loadSegReal r sel).par = s.par := by
  cases r <;> rfl
@[simp] theorem State.loadSegReal_offers (s : State) (r : Sreg) (sel : BitVec 16) :
    (s.loadSegReal r sel).offers = s.offers := by
  cases r <;> rfl
@[simp] theorem State.loadSegReal_draws (s : State) (r : Sreg) (sel : BitVec 16) :
    (s.loadSegReal r sel).draws = s.draws := by
  cases r <;> rfl

/-! ## selToReg32 -/

@[simp] theorem State.selToReg32_pc (s : State) (i : BitVec 4) (rex : Bool) (sel : BitVec 16) :
    (s.selToReg32 i rex sel).pc = s.pc := by
  obtain ⟨_, _, _, h⟩ := s.selToReg32_eq i rex sel; rw [h]; rfl
@[simp] theorem State.selToReg32_flags (s : State) (i : BitVec 4) (rex : Bool) (sel : BitVec 16) :
    (s.selToReg32 i rex sel).flags = s.flags := by
  obtain ⟨_, _, _, h⟩ := s.selToReg32_eq i rex sel; rw [h]; rfl
@[simp] theorem State.selToReg32_seg (s : State) (i : BitVec 4) (rex : Bool) (sel : BitVec 16) :
    (s.selToReg32 i rex sel).seg = s.seg := by
  obtain ⟨_, _, _, h⟩ := s.selToReg32_eq i rex sel; rw [h]; rfl
@[simp] theorem State.selToReg32_csD (s : State) (i : BitVec 4) (rex : Bool) (sel : BitVec 16) :
    (s.selToReg32 i rex sel).csD = s.csD := by
  obtain ⟨_, _, _, h⟩ := s.selToReg32_eq i rex sel; rw [h]; rfl
@[simp] theorem State.selToReg32_cpl (s : State) (i : BitVec 4) (rex : Bool) (sel : BitVec 16) :
    (s.selToReg32 i rex sel).cpl = s.cpl := by
  obtain ⟨_, _, _, h⟩ := s.selToReg32_eq i rex sel; rw [h]; rfl
@[simp] theorem State.selToReg32_cr0 (s : State) (i : BitVec 4) (rex : Bool) (sel : BitVec 16) :
    (s.selToReg32 i rex sel).cr0 = s.cr0 := by
  obtain ⟨_, _, _, h⟩ := s.selToReg32_eq i rex sel; rw [h]; rfl
@[simp] theorem State.selToReg32_cr2 (s : State) (i : BitVec 4) (rex : Bool) (sel : BitVec 16) :
    (s.selToReg32 i rex sel).cr2 = s.cr2 := by
  obtain ⟨_, _, _, h⟩ := s.selToReg32_eq i rex sel; rw [h]; rfl
@[simp] theorem State.selToReg32_cr3 (s : State) (i : BitVec 4) (rex : Bool) (sel : BitVec 16) :
    (s.selToReg32 i rex sel).cr3 = s.cr3 := by
  obtain ⟨_, _, _, h⟩ := s.selToReg32_eq i rex sel; rw [h]; rfl
@[simp] theorem State.selToReg32_cr4 (s : State) (i : BitVec 4) (rex : Bool) (sel : BitVec 16) :
    (s.selToReg32 i rex sel).cr4 = s.cr4 := by
  obtain ⟨_, _, _, h⟩ := s.selToReg32_eq i rex sel; rw [h]; rfl
@[simp] theorem State.selToReg32_cr8 (s : State) (i : BitVec 4) (rex : Bool) (sel : BitVec 16) :
    (s.selToReg32 i rex sel).cr8 = s.cr8 := by
  obtain ⟨_, _, _, h⟩ := s.selToReg32_eq i rex sel; rw [h]; rfl
@[simp] theorem State.selToReg32_dr0 (s : State) (i : BitVec 4) (rex : Bool) (sel : BitVec 16) :
    (s.selToReg32 i rex sel).dr0 = s.dr0 := by
  obtain ⟨_, _, _, h⟩ := s.selToReg32_eq i rex sel; rw [h]; rfl
@[simp] theorem State.selToReg32_dr1 (s : State) (i : BitVec 4) (rex : Bool) (sel : BitVec 16) :
    (s.selToReg32 i rex sel).dr1 = s.dr1 := by
  obtain ⟨_, _, _, h⟩ := s.selToReg32_eq i rex sel; rw [h]; rfl
@[simp] theorem State.selToReg32_dr2 (s : State) (i : BitVec 4) (rex : Bool) (sel : BitVec 16) :
    (s.selToReg32 i rex sel).dr2 = s.dr2 := by
  obtain ⟨_, _, _, h⟩ := s.selToReg32_eq i rex sel; rw [h]; rfl
@[simp] theorem State.selToReg32_dr3 (s : State) (i : BitVec 4) (rex : Bool) (sel : BitVec 16) :
    (s.selToReg32 i rex sel).dr3 = s.dr3 := by
  obtain ⟨_, _, _, h⟩ := s.selToReg32_eq i rex sel; rw [h]; rfl
@[simp] theorem State.selToReg32_dr6 (s : State) (i : BitVec 4) (rex : Bool) (sel : BitVec 16) :
    (s.selToReg32 i rex sel).dr6 = s.dr6 := by
  obtain ⟨_, _, _, h⟩ := s.selToReg32_eq i rex sel; rw [h]; rfl
@[simp] theorem State.selToReg32_dr7 (s : State) (i : BitVec 4) (rex : Bool) (sel : BitVec 16) :
    (s.selToReg32 i rex sel).dr7 = s.dr7 := by
  obtain ⟨_, _, _, h⟩ := s.selToReg32_eq i rex sel; rw [h]; rfl
@[simp] theorem State.selToReg32_mode (s : State) (i : BitVec 4) (rex : Bool) (sel : BitVec 16) :
    (s.selToReg32 i rex sel).mode = s.mode := by
  obtain ⟨_, _, _, h⟩ := s.selToReg32_eq i rex sel; rw [h]; rfl
@[simp] theorem State.selToReg32_intShadow (s : State) (i : BitVec 4) (rex : Bool) (sel : BitVec 16) :
    (s.selToReg32 i rex sel).intShadow = s.intShadow := by
  obtain ⟨_, _, _, h⟩ := s.selToReg32_eq i rex sel; rw [h]; rfl
@[simp] theorem State.selToReg32_tlb (s : State) (i : BitVec 4) (rex : Bool) (sel : BitVec 16) :
    (s.selToReg32 i rex sel).tlb = s.tlb := by
  obtain ⟨_, _, _, h⟩ := s.selToReg32_eq i rex sel; rw [h]; rfl
@[simp] theorem State.selToReg32_mem (s : State) (i : BitVec 4) (rex : Bool) (sel : BitVec 16) :
    (s.selToReg32 i rex sel).mem = s.mem := by
  obtain ⟨_, _, _, h⟩ := s.selToReg32_eq i rex sel; rw [h]; rfl
@[simp] theorem State.selToReg32_text (s : State) (i : BitVec 4) (rex : Bool) (sel : BitVec 16) :
    (s.selToReg32 i rex sel).text = s.text := by
  obtain ⟨_, _, _, h⟩ := s.selToReg32_eq i rex sel; rw [h]; rfl
@[simp] theorem State.selToReg32_par (s : State) (i : BitVec 4) (rex : Bool) (sel : BitVec 16) :
    (s.selToReg32 i rex sel).par = s.par := by
  obtain ⟨_, _, _, h⟩ := s.selToReg32_eq i rex sel; rw [h]; rfl
@[simp] theorem State.selToReg32_offers (s : State) (i : BitVec 4) (rex : Bool) (sel : BitVec 16) :
    (s.selToReg32 i rex sel).offers = s.offers := by
  obtain ⟨_, _, _, h⟩ := s.selToReg32_eq i rex sel; rw [h]; rfl

/-! ## complete -/

@[simp] theorem State.complete_x (s : State) (len : Nat) :
    (s.complete len).x = s.x := rfl
@[simp] theorem State.complete_flags (s : State) (len : Nat) :
    (s.complete len).flags = s.flags := rfl
@[simp] theorem State.complete_seg (s : State) (len : Nat) :
    (s.complete len).seg = s.seg := rfl
@[simp] theorem State.complete_csD (s : State) (len : Nat) :
    (s.complete len).csD = s.csD := rfl
@[simp] theorem State.complete_cpl (s : State) (len : Nat) :
    (s.complete len).cpl = s.cpl := rfl
@[simp] theorem State.complete_cr0 (s : State) (len : Nat) :
    (s.complete len).cr0 = s.cr0 := rfl
@[simp] theorem State.complete_cr2 (s : State) (len : Nat) :
    (s.complete len).cr2 = s.cr2 := rfl
@[simp] theorem State.complete_cr3 (s : State) (len : Nat) :
    (s.complete len).cr3 = s.cr3 := rfl
@[simp] theorem State.complete_cr4 (s : State) (len : Nat) :
    (s.complete len).cr4 = s.cr4 := rfl
@[simp] theorem State.complete_cr8 (s : State) (len : Nat) :
    (s.complete len).cr8 = s.cr8 := rfl
@[simp] theorem State.complete_dr0 (s : State) (len : Nat) :
    (s.complete len).dr0 = s.dr0 := rfl
@[simp] theorem State.complete_dr1 (s : State) (len : Nat) :
    (s.complete len).dr1 = s.dr1 := rfl
@[simp] theorem State.complete_dr2 (s : State) (len : Nat) :
    (s.complete len).dr2 = s.dr2 := rfl
@[simp] theorem State.complete_dr3 (s : State) (len : Nat) :
    (s.complete len).dr3 = s.dr3 := rfl
@[simp] theorem State.complete_dr6 (s : State) (len : Nat) :
    (s.complete len).dr6 = s.dr6 := rfl
@[simp] theorem State.complete_dr7 (s : State) (len : Nat) :
    (s.complete len).dr7 = s.dr7 := rfl
@[simp] theorem State.complete_mode (s : State) (len : Nat) :
    (s.complete len).mode = s.mode := rfl
@[simp] theorem State.complete_tlb (s : State) (len : Nat) :
    (s.complete len).tlb = s.tlb := rfl
@[simp] theorem State.complete_mem (s : State) (len : Nat) :
    (s.complete len).mem = s.mem := rfl
@[simp] theorem State.complete_text (s : State) (len : Nat) :
    (s.complete len).text = s.text := rfl
@[simp] theorem State.complete_par (s : State) (len : Nat) :
    (s.complete len).par = s.par := rfl
@[simp] theorem State.complete_offers (s : State) (len : Nat) :
    (s.complete len).offers = s.offers := rfl
@[simp] theorem State.complete_draws (s : State) (len : Nat) :
    (s.complete len).draws = s.draws := rfl

/-! ## completeLoad -/

@[simp] theorem State.completeLoad_x (s : State) (r : Sreg) (len : Nat) :
    (s.completeLoad r len).x = s.x := by
  obtain ⟨_, _, h⟩ := s.completeLoad_eq r len; rw [h]; rfl
@[simp] theorem State.completeLoad_flags (s : State) (r : Sreg) (len : Nat) :
    (s.completeLoad r len).flags = s.flags := by
  obtain ⟨_, _, h⟩ := s.completeLoad_eq r len; rw [h]; rfl
@[simp] theorem State.completeLoad_seg (s : State) (r : Sreg) (len : Nat) :
    (s.completeLoad r len).seg = s.seg := by
  obtain ⟨_, _, h⟩ := s.completeLoad_eq r len; rw [h]; rfl
@[simp] theorem State.completeLoad_csD (s : State) (r : Sreg) (len : Nat) :
    (s.completeLoad r len).csD = s.csD := by
  obtain ⟨_, _, h⟩ := s.completeLoad_eq r len; rw [h]; rfl
@[simp] theorem State.completeLoad_cpl (s : State) (r : Sreg) (len : Nat) :
    (s.completeLoad r len).cpl = s.cpl := by
  obtain ⟨_, _, h⟩ := s.completeLoad_eq r len; rw [h]; rfl
@[simp] theorem State.completeLoad_cr0 (s : State) (r : Sreg) (len : Nat) :
    (s.completeLoad r len).cr0 = s.cr0 := by
  obtain ⟨_, _, h⟩ := s.completeLoad_eq r len; rw [h]; rfl
@[simp] theorem State.completeLoad_cr2 (s : State) (r : Sreg) (len : Nat) :
    (s.completeLoad r len).cr2 = s.cr2 := by
  obtain ⟨_, _, h⟩ := s.completeLoad_eq r len; rw [h]; rfl
@[simp] theorem State.completeLoad_cr3 (s : State) (r : Sreg) (len : Nat) :
    (s.completeLoad r len).cr3 = s.cr3 := by
  obtain ⟨_, _, h⟩ := s.completeLoad_eq r len; rw [h]; rfl
@[simp] theorem State.completeLoad_cr4 (s : State) (r : Sreg) (len : Nat) :
    (s.completeLoad r len).cr4 = s.cr4 := by
  obtain ⟨_, _, h⟩ := s.completeLoad_eq r len; rw [h]; rfl
@[simp] theorem State.completeLoad_cr8 (s : State) (r : Sreg) (len : Nat) :
    (s.completeLoad r len).cr8 = s.cr8 := by
  obtain ⟨_, _, h⟩ := s.completeLoad_eq r len; rw [h]; rfl
@[simp] theorem State.completeLoad_dr0 (s : State) (r : Sreg) (len : Nat) :
    (s.completeLoad r len).dr0 = s.dr0 := by
  obtain ⟨_, _, h⟩ := s.completeLoad_eq r len; rw [h]; rfl
@[simp] theorem State.completeLoad_dr1 (s : State) (r : Sreg) (len : Nat) :
    (s.completeLoad r len).dr1 = s.dr1 := by
  obtain ⟨_, _, h⟩ := s.completeLoad_eq r len; rw [h]; rfl
@[simp] theorem State.completeLoad_dr2 (s : State) (r : Sreg) (len : Nat) :
    (s.completeLoad r len).dr2 = s.dr2 := by
  obtain ⟨_, _, h⟩ := s.completeLoad_eq r len; rw [h]; rfl
@[simp] theorem State.completeLoad_dr3 (s : State) (r : Sreg) (len : Nat) :
    (s.completeLoad r len).dr3 = s.dr3 := by
  obtain ⟨_, _, h⟩ := s.completeLoad_eq r len; rw [h]; rfl
@[simp] theorem State.completeLoad_dr6 (s : State) (r : Sreg) (len : Nat) :
    (s.completeLoad r len).dr6 = s.dr6 := by
  obtain ⟨_, _, h⟩ := s.completeLoad_eq r len; rw [h]; rfl
@[simp] theorem State.completeLoad_dr7 (s : State) (r : Sreg) (len : Nat) :
    (s.completeLoad r len).dr7 = s.dr7 := by
  obtain ⟨_, _, h⟩ := s.completeLoad_eq r len; rw [h]; rfl
@[simp] theorem State.completeLoad_mode (s : State) (r : Sreg) (len : Nat) :
    (s.completeLoad r len).mode = s.mode := by
  obtain ⟨_, _, h⟩ := s.completeLoad_eq r len; rw [h]; rfl
@[simp] theorem State.completeLoad_tlb (s : State) (r : Sreg) (len : Nat) :
    (s.completeLoad r len).tlb = s.tlb := by
  obtain ⟨_, _, h⟩ := s.completeLoad_eq r len; rw [h]; rfl
@[simp] theorem State.completeLoad_mem (s : State) (r : Sreg) (len : Nat) :
    (s.completeLoad r len).mem = s.mem := by
  obtain ⟨_, _, h⟩ := s.completeLoad_eq r len; rw [h]; rfl
@[simp] theorem State.completeLoad_text (s : State) (r : Sreg) (len : Nat) :
    (s.completeLoad r len).text = s.text := by
  obtain ⟨_, _, h⟩ := s.completeLoad_eq r len; rw [h]; rfl
@[simp] theorem State.completeLoad_par (s : State) (r : Sreg) (len : Nat) :
    (s.completeLoad r len).par = s.par := by
  obtain ⟨_, _, h⟩ := s.completeLoad_eq r len; rw [h]; rfl
@[simp] theorem State.completeLoad_offers (s : State) (r : Sreg) (len : Nat) :
    (s.completeLoad r len).offers = s.offers := by
  obtain ⟨_, _, h⟩ := s.completeLoad_eq r len; rw [h]; rfl

/-! ## undefFlags -/

@[simp] theorem State.undefFlags_x (s : State) :
    (s.undefFlags).x = s.x := rfl
@[simp] theorem State.undefFlags_pc (s : State) :
    (s.undefFlags).pc = s.pc := rfl
@[simp] theorem State.undefFlags_seg (s : State) :
    (s.undefFlags).seg = s.seg := rfl
@[simp] theorem State.undefFlags_csD (s : State) :
    (s.undefFlags).csD = s.csD := rfl
@[simp] theorem State.undefFlags_cpl (s : State) :
    (s.undefFlags).cpl = s.cpl := rfl
@[simp] theorem State.undefFlags_cr0 (s : State) :
    (s.undefFlags).cr0 = s.cr0 := rfl
@[simp] theorem State.undefFlags_cr2 (s : State) :
    (s.undefFlags).cr2 = s.cr2 := rfl
@[simp] theorem State.undefFlags_cr3 (s : State) :
    (s.undefFlags).cr3 = s.cr3 := rfl
@[simp] theorem State.undefFlags_cr4 (s : State) :
    (s.undefFlags).cr4 = s.cr4 := rfl
@[simp] theorem State.undefFlags_cr8 (s : State) :
    (s.undefFlags).cr8 = s.cr8 := rfl
@[simp] theorem State.undefFlags_dr0 (s : State) :
    (s.undefFlags).dr0 = s.dr0 := rfl
@[simp] theorem State.undefFlags_dr1 (s : State) :
    (s.undefFlags).dr1 = s.dr1 := rfl
@[simp] theorem State.undefFlags_dr2 (s : State) :
    (s.undefFlags).dr2 = s.dr2 := rfl
@[simp] theorem State.undefFlags_dr3 (s : State) :
    (s.undefFlags).dr3 = s.dr3 := rfl
@[simp] theorem State.undefFlags_dr6 (s : State) :
    (s.undefFlags).dr6 = s.dr6 := rfl
@[simp] theorem State.undefFlags_dr7 (s : State) :
    (s.undefFlags).dr7 = s.dr7 := rfl
@[simp] theorem State.undefFlags_mode (s : State) :
    (s.undefFlags).mode = s.mode := rfl
@[simp] theorem State.undefFlags_intShadow (s : State) :
    (s.undefFlags).intShadow = s.intShadow := rfl
@[simp] theorem State.undefFlags_tlb (s : State) :
    (s.undefFlags).tlb = s.tlb := rfl
@[simp] theorem State.undefFlags_mem (s : State) :
    (s.undefFlags).mem = s.mem := rfl
@[simp] theorem State.undefFlags_text (s : State) :
    (s.undefFlags).text = s.text := rfl
@[simp] theorem State.undefFlags_par (s : State) :
    (s.undefFlags).par = s.par := rfl
@[simp] theorem State.undefFlags_offers (s : State) :
    (s.undefFlags).offers = s.offers := rfl

/-! ## completeUndef -/

@[simp] theorem State.completeUndef_x (s : State) (len : Nat) :
    (s.completeUndef len).x = s.x := rfl
@[simp] theorem State.completeUndef_seg (s : State) (len : Nat) :
    (s.completeUndef len).seg = s.seg := rfl
@[simp] theorem State.completeUndef_csD (s : State) (len : Nat) :
    (s.completeUndef len).csD = s.csD := rfl
@[simp] theorem State.completeUndef_cpl (s : State) (len : Nat) :
    (s.completeUndef len).cpl = s.cpl := rfl
@[simp] theorem State.completeUndef_cr0 (s : State) (len : Nat) :
    (s.completeUndef len).cr0 = s.cr0 := rfl
@[simp] theorem State.completeUndef_cr2 (s : State) (len : Nat) :
    (s.completeUndef len).cr2 = s.cr2 := rfl
@[simp] theorem State.completeUndef_cr3 (s : State) (len : Nat) :
    (s.completeUndef len).cr3 = s.cr3 := rfl
@[simp] theorem State.completeUndef_cr4 (s : State) (len : Nat) :
    (s.completeUndef len).cr4 = s.cr4 := rfl
@[simp] theorem State.completeUndef_cr8 (s : State) (len : Nat) :
    (s.completeUndef len).cr8 = s.cr8 := rfl
@[simp] theorem State.completeUndef_dr0 (s : State) (len : Nat) :
    (s.completeUndef len).dr0 = s.dr0 := rfl
@[simp] theorem State.completeUndef_dr1 (s : State) (len : Nat) :
    (s.completeUndef len).dr1 = s.dr1 := rfl
@[simp] theorem State.completeUndef_dr2 (s : State) (len : Nat) :
    (s.completeUndef len).dr2 = s.dr2 := rfl
@[simp] theorem State.completeUndef_dr3 (s : State) (len : Nat) :
    (s.completeUndef len).dr3 = s.dr3 := rfl
@[simp] theorem State.completeUndef_dr6 (s : State) (len : Nat) :
    (s.completeUndef len).dr6 = s.dr6 := rfl
@[simp] theorem State.completeUndef_dr7 (s : State) (len : Nat) :
    (s.completeUndef len).dr7 = s.dr7 := rfl
@[simp] theorem State.completeUndef_mode (s : State) (len : Nat) :
    (s.completeUndef len).mode = s.mode := rfl
@[simp] theorem State.completeUndef_tlb (s : State) (len : Nat) :
    (s.completeUndef len).tlb = s.tlb := rfl
@[simp] theorem State.completeUndef_mem (s : State) (len : Nat) :
    (s.completeUndef len).mem = s.mem := rfl
@[simp] theorem State.completeUndef_text (s : State) (len : Nat) :
    (s.completeUndef len).text = s.text := rfl
@[simp] theorem State.completeUndef_par (s : State) (len : Nat) :
    (s.completeUndef len).par = s.par := rfl
@[simp] theorem State.completeUndef_offers (s : State) (len : Nat) :
    (s.completeUndef len).offers = s.offers := rfl

/-! ## drStore -/

@[simp] theorem State.drStore_x (s : State) (i : BitVec 3) (v : Word) :
    (s.drStore i v).x = s.x := by
  obtain ⟨_, _, _, _, _, _, h⟩ := s.drStore_eq i v; rw [h]
@[simp] theorem State.drStore_pc (s : State) (i : BitVec 3) (v : Word) :
    (s.drStore i v).pc = s.pc := by
  obtain ⟨_, _, _, _, _, _, h⟩ := s.drStore_eq i v; rw [h]
@[simp] theorem State.drStore_flags (s : State) (i : BitVec 3) (v : Word) :
    (s.drStore i v).flags = s.flags := by
  obtain ⟨_, _, _, _, _, _, h⟩ := s.drStore_eq i v; rw [h]
@[simp] theorem State.drStore_seg (s : State) (i : BitVec 3) (v : Word) :
    (s.drStore i v).seg = s.seg := by
  obtain ⟨_, _, _, _, _, _, h⟩ := s.drStore_eq i v; rw [h]
@[simp] theorem State.drStore_csD (s : State) (i : BitVec 3) (v : Word) :
    (s.drStore i v).csD = s.csD := by
  obtain ⟨_, _, _, _, _, _, h⟩ := s.drStore_eq i v; rw [h]
@[simp] theorem State.drStore_cpl (s : State) (i : BitVec 3) (v : Word) :
    (s.drStore i v).cpl = s.cpl := by
  obtain ⟨_, _, _, _, _, _, h⟩ := s.drStore_eq i v; rw [h]
@[simp] theorem State.drStore_cr0 (s : State) (i : BitVec 3) (v : Word) :
    (s.drStore i v).cr0 = s.cr0 := by
  obtain ⟨_, _, _, _, _, _, h⟩ := s.drStore_eq i v; rw [h]
@[simp] theorem State.drStore_cr2 (s : State) (i : BitVec 3) (v : Word) :
    (s.drStore i v).cr2 = s.cr2 := by
  obtain ⟨_, _, _, _, _, _, h⟩ := s.drStore_eq i v; rw [h]
@[simp] theorem State.drStore_cr3 (s : State) (i : BitVec 3) (v : Word) :
    (s.drStore i v).cr3 = s.cr3 := by
  obtain ⟨_, _, _, _, _, _, h⟩ := s.drStore_eq i v; rw [h]
@[simp] theorem State.drStore_cr4 (s : State) (i : BitVec 3) (v : Word) :
    (s.drStore i v).cr4 = s.cr4 := by
  obtain ⟨_, _, _, _, _, _, h⟩ := s.drStore_eq i v; rw [h]
@[simp] theorem State.drStore_cr8 (s : State) (i : BitVec 3) (v : Word) :
    (s.drStore i v).cr8 = s.cr8 := by
  obtain ⟨_, _, _, _, _, _, h⟩ := s.drStore_eq i v; rw [h]
@[simp] theorem State.drStore_mode (s : State) (i : BitVec 3) (v : Word) :
    (s.drStore i v).mode = s.mode := by
  obtain ⟨_, _, _, _, _, _, h⟩ := s.drStore_eq i v; rw [h]
@[simp] theorem State.drStore_intShadow (s : State) (i : BitVec 3) (v : Word) :
    (s.drStore i v).intShadow = s.intShadow := by
  obtain ⟨_, _, _, _, _, _, h⟩ := s.drStore_eq i v; rw [h]
@[simp] theorem State.drStore_tlb (s : State) (i : BitVec 3) (v : Word) :
    (s.drStore i v).tlb = s.tlb := by
  obtain ⟨_, _, _, _, _, _, h⟩ := s.drStore_eq i v; rw [h]
@[simp] theorem State.drStore_mem (s : State) (i : BitVec 3) (v : Word) :
    (s.drStore i v).mem = s.mem := by
  obtain ⟨_, _, _, _, _, _, h⟩ := s.drStore_eq i v; rw [h]
@[simp] theorem State.drStore_text (s : State) (i : BitVec 3) (v : Word) :
    (s.drStore i v).text = s.text := by
  obtain ⟨_, _, _, _, _, _, h⟩ := s.drStore_eq i v; rw [h]
@[simp] theorem State.drStore_par (s : State) (i : BitVec 3) (v : Word) :
    (s.drStore i v).par = s.par := by
  obtain ⟨_, _, _, _, _, _, h⟩ := s.drStore_eq i v; rw [h]
@[simp] theorem State.drStore_offers (s : State) (i : BitVec 3) (v : Word) :
    (s.drStore i v).offers = s.offers := by
  obtain ⟨_, _, _, _, _, _, h⟩ := s.drStore_eq i v; rw [h]
@[simp] theorem State.drStore_draws (s : State) (i : BitVec 3) (v : Word) :
    (s.drStore i v).draws = s.draws := by
  obtain ⟨_, _, _, _, _, _, h⟩ := s.drStore_eq i v; rw [h]

/-! ## begin -/

@[simp] theorem State.begin_x (s : State) :
    (s.begin).x = s.x := rfl
@[simp] theorem State.begin_pc (s : State) :
    (s.begin).pc = s.pc := rfl
@[simp] theorem State.begin_flags (s : State) :
    (s.begin).flags = s.flags := rfl
@[simp] theorem State.begin_seg (s : State) :
    (s.begin).seg = s.seg := rfl
@[simp] theorem State.begin_csD (s : State) :
    (s.begin).csD = s.csD := rfl
@[simp] theorem State.begin_cpl (s : State) :
    (s.begin).cpl = s.cpl := rfl
@[simp] theorem State.begin_cr0 (s : State) :
    (s.begin).cr0 = s.cr0 := rfl
@[simp] theorem State.begin_cr2 (s : State) :
    (s.begin).cr2 = s.cr2 := rfl
@[simp] theorem State.begin_cr3 (s : State) :
    (s.begin).cr3 = s.cr3 := rfl
@[simp] theorem State.begin_cr4 (s : State) :
    (s.begin).cr4 = s.cr4 := rfl
@[simp] theorem State.begin_cr8 (s : State) :
    (s.begin).cr8 = s.cr8 := rfl
@[simp] theorem State.begin_dr0 (s : State) :
    (s.begin).dr0 = s.dr0 := rfl
@[simp] theorem State.begin_dr1 (s : State) :
    (s.begin).dr1 = s.dr1 := rfl
@[simp] theorem State.begin_dr2 (s : State) :
    (s.begin).dr2 = s.dr2 := rfl
@[simp] theorem State.begin_dr3 (s : State) :
    (s.begin).dr3 = s.dr3 := rfl
@[simp] theorem State.begin_dr6 (s : State) :
    (s.begin).dr6 = s.dr6 := rfl
@[simp] theorem State.begin_dr7 (s : State) :
    (s.begin).dr7 = s.dr7 := rfl
@[simp] theorem State.begin_mode (s : State) :
    (s.begin).mode = s.mode := rfl
@[simp] theorem State.begin_intShadow (s : State) :
    (s.begin).intShadow = s.intShadow := rfl
@[simp] theorem State.begin_tlb (s : State) :
    (s.begin).tlb = s.tlb := rfl
@[simp] theorem State.begin_mem (s : State) :
    (s.begin).mem = s.mem := rfl
@[simp] theorem State.begin_text (s : State) :
    (s.begin).text = s.text := rfl
@[simp] theorem State.begin_par (s : State) :
    (s.begin).par = s.par := rfl
@[simp] theorem State.begin_draws (s : State) :
    (s.begin).draws = s.draws := rfl

/-! ## placeWord -/

@[simp] theorem State.placeWord_x (s : State) (nbits w : Nat) :
    (s.placeWord nbits w).x = s.x := rfl
@[simp] theorem State.placeWord_pc (s : State) (nbits w : Nat) :
    (s.placeWord nbits w).pc = s.pc := rfl
@[simp] theorem State.placeWord_flags (s : State) (nbits w : Nat) :
    (s.placeWord nbits w).flags = s.flags := rfl
@[simp] theorem State.placeWord_seg (s : State) (nbits w : Nat) :
    (s.placeWord nbits w).seg = s.seg := rfl
@[simp] theorem State.placeWord_csD (s : State) (nbits w : Nat) :
    (s.placeWord nbits w).csD = s.csD := rfl
@[simp] theorem State.placeWord_cpl (s : State) (nbits w : Nat) :
    (s.placeWord nbits w).cpl = s.cpl := rfl
@[simp] theorem State.placeWord_cr0 (s : State) (nbits w : Nat) :
    (s.placeWord nbits w).cr0 = s.cr0 := rfl
@[simp] theorem State.placeWord_cr2 (s : State) (nbits w : Nat) :
    (s.placeWord nbits w).cr2 = s.cr2 := rfl
@[simp] theorem State.placeWord_cr3 (s : State) (nbits w : Nat) :
    (s.placeWord nbits w).cr3 = s.cr3 := rfl
@[simp] theorem State.placeWord_cr4 (s : State) (nbits w : Nat) :
    (s.placeWord nbits w).cr4 = s.cr4 := rfl
@[simp] theorem State.placeWord_cr8 (s : State) (nbits w : Nat) :
    (s.placeWord nbits w).cr8 = s.cr8 := rfl
@[simp] theorem State.placeWord_dr0 (s : State) (nbits w : Nat) :
    (s.placeWord nbits w).dr0 = s.dr0 := rfl
@[simp] theorem State.placeWord_dr1 (s : State) (nbits w : Nat) :
    (s.placeWord nbits w).dr1 = s.dr1 := rfl
@[simp] theorem State.placeWord_dr2 (s : State) (nbits w : Nat) :
    (s.placeWord nbits w).dr2 = s.dr2 := rfl
@[simp] theorem State.placeWord_dr3 (s : State) (nbits w : Nat) :
    (s.placeWord nbits w).dr3 = s.dr3 := rfl
@[simp] theorem State.placeWord_dr6 (s : State) (nbits w : Nat) :
    (s.placeWord nbits w).dr6 = s.dr6 := rfl
@[simp] theorem State.placeWord_dr7 (s : State) (nbits w : Nat) :
    (s.placeWord nbits w).dr7 = s.dr7 := rfl
@[simp] theorem State.placeWord_mode (s : State) (nbits w : Nat) :
    (s.placeWord nbits w).mode = s.mode := rfl
@[simp] theorem State.placeWord_intShadow (s : State) (nbits w : Nat) :
    (s.placeWord nbits w).intShadow = s.intShadow := rfl
@[simp] theorem State.placeWord_tlb (s : State) (nbits w : Nat) :
    (s.placeWord nbits w).tlb = s.tlb := rfl
@[simp] theorem State.placeWord_mem (s : State) (nbits w : Nat) :
    (s.placeWord nbits w).mem = s.mem := rfl
@[simp] theorem State.placeWord_par (s : State) (nbits w : Nat) :
    (s.placeWord nbits w).par = s.par := rfl
@[simp] theorem State.placeWord_offers (s : State) (nbits w : Nat) :
    (s.placeWord nbits w).offers = s.offers := rfl
@[simp] theorem State.placeWord_draws (s : State) (nbits w : Nat) :
    (s.placeWord nbits w).draws = s.draws := rfl

/-! ## What the updates write -/

theorem State.reg_setReg (s : State) (i j : BitVec 4) (v : Word) :
    (s.setReg i v).reg j = if i = j then v else s.reg j := by
  simp only [State.reg, State.setReg, Vector.getElem_set, BitVec.toNat_inj]

@[simp] theorem State.reg_setReg_same (s : State) (i : BitVec 4) (v : Word) : (s.setReg i v).reg i = v := by
  simp [State.reg_setReg]

theorem State.reg_setReg_ne (s : State) (i j : BitVec 4) (v : Word) (h : i ≠ j) : (s.setReg i v).reg j = s.reg j := by
  simp [State.reg_setReg, h]

theorem State.sreg_setSreg (s : State) (q r : Sreg) (v : SegReg) :
    (s.setSreg q v).sreg r = if q = r then v else s.sreg r := by
  cases q <;> cases r <;> rfl

@[simp] theorem State.undefFlags_ac (s : State) : s.undefFlags.flags.ac = s.flags.ac := rfl

@[simp] theorem State.completeUndef_ac (s : State) (len : Nat) : (s.completeUndef len).flags.ac = s.flags.ac := rfl

@[simp] theorem State.complete_pc (s : State) (len : Nat) :
    (s.complete len).pc = s.pcWrap (s.pc + BitVec.ofNat 64 len) := rfl

@[simp] theorem State.complete_intShadow (s : State) (len : Nat) : (s.complete len).intShadow = false := rfl

@[simp] theorem State.completeUndef_pc (s : State) (len : Nat) :
    (s.completeUndef len).pc = s.pcWrap (s.pc + BitVec.ofNat 64 len) := rfl

@[simp] theorem State.completeUndef_intShadow (s : State) (len : Nat) : (s.completeUndef len).intShadow = false := rfl

end Sys2Proof.Machine
end

