-- ==== Sys2Proof/Laws/Ops.lean ====
section
/-! SUPPORT. For each shared operation, once, everything it can do when it answers. Later proofs cite these lemmas and do not
unfold the operations. -/

namespace Sys2Proof.Machine

/-! ## Outcomes -/

theorem settle_eq_next {s t : State} {r : Except Stop State} : settle s r = .next t ↔ r = .ok t := by
  rcases r with (e | q) | u <;> simp [settle, raise]

theorem except_map_eq_ok {ε α β : Type} {r : Except ε α} {f : α → β} {b : β} :
    r.map f = .ok b ↔ ∃ a, r = .ok a ∧ f a = b := by
  cases r <;> simp [Except.map]

/-- A MOV-Move instruction that answers has no LOCK prefix, and its effect answered. -/
theorem moveStep_eq_next {p : Prefixes} {len : Nat} {s t : State} {e : Except Stop State} :
    moveStep p len s e = .next t ↔ p.lock = false ∧ ∃ u, e = .ok u ∧ u.complete len = t := by
  unfold moveStep
  cases p.lock <;> simp [settle_eq_next, except_map_eq_ok, raise]

/-! ## Registers -/

/-- A register write that names one register changes no other register. -/
theorem State.reg_regWrite_ne (s : State) (w : Width) (i j : BitVec 4) (rex : Bool) (v : Word)
    (h : (if w = .b8 ∧ highByte i rex = true then i - 4 else i) ≠ j) : (s.regWrite w i rex v).reg j = s.reg j := by
  cases w
  · show (if highByte i rex = true then _ else _ : State).reg j = _
    by_cases hb : highByte i rex = true
    · rw [if_pos hb]; simp only [hb, and_self, if_true] at h; exact s.reg_setReg_ne _ j _ h
    · rw [if_neg hb]; simp only [hb] at h; exact s.reg_setReg_ne _ j _ (by simpa using h)
  · exact s.reg_setReg_ne _ j _ (by simpa using h)
  · have h' : i ≠ j := by simpa using h
    show (if s.mode = .long64 then _ else _ : State).reg j = _
    split
    · exact s.reg_setReg_ne _ j _ h'
    · exact s.reg_setReg_ne _ j _ h'
  · exact s.reg_setReg_ne _ j _ (by simpa using h)

/-! ## Data accesses -/

/-- An access that answers has passed the checks of both stages, and every byte exists. -/
theorem State.access_eq_ok {s : State} {r : Sreg} {off : Word} {n : Nat} {acc : Access} {phys : Word}
    (h : s.access r off n acc = .ok phys) :
    s.segFault r off n acc = none ∧ s.unreadable r acc = false
      ∧ s.pageStage (s.linear r off) n acc = .ok phys ∧ ∀ a ∈ s.byteAddrs phys n, s.isMapped a = true := by
  unfold State.access at h
  split at h
  · cases h
  · split at h
    · cases h
    · split at h
      · cases h
      · split at h
        · cases h
        · cases h
          refine ⟨‹_›, Bool.eq_false_iff.2 ‹¬ s.unreadable r acc = true›, ‹_›, fun a ha => ?_⟩
          have := List.find?_eq_none.1 ‹_› a ha
          simpa using this

theorem State.loadOp_eq_ok {s : State} {r : Sreg} {off : Word} {n : Nat} {v : Word}
    (h : s.loadOp r off n = .ok v) :
    ∃ phys, s.access r off n .read = .ok phys ∧ v = leValue ((s.byteAddrs phys n).map s.mem.read) := by
  unfold State.loadOp at h
  split at h
  · cases h
  · cases h; exact ⟨_, ‹_›, rfl⟩

/-- A store that answers changes memory only: the bytes of the access, and it does not touch the text. -/
theorem State.storeOp_eq_ok {s t : State} {r : Sreg} {off : Word} {n : Nat} {v : Word}
    (h : s.storeOp r off n v = .ok t) :
    ∃ phys, s.access r off n .write = .ok phys ∧ s.hitsText (s.linear r off) n = false
      ∧ t = { s with mem := s.mem.writeAll ((s.byteAddrs phys n).zip (leBytes n v)) } := by
  unfold State.storeOp at h
  split at h
  · cases h
  · split at h
    · cases h
    · cases h; exact ⟨_, ‹_›, Bool.eq_false_iff.2 ‹¬ s.hitsText (s.linear r off) n = true›, rfl⟩

/-- A store keeps the canonical form of memory. -/
theorem State.storeOp_wf {s t : State} {r : Sreg} {off : Word} {n : Nat} {v : Word}
    (h : s.storeOp r off n v = .ok t) (hm : Memory.wf s.mem) : Memory.wf t.mem := by
  obtain ⟨_, _, _, rfl⟩ := State.storeOp_eq_ok h
  exact Memory.writeAll_wf _ _ hm

/-- Writing the r/m operand writes one general register, or memory through one store. -/
theorem State.writeRm_eq_ok {s t : State} {p : Prefixes} {len : Nat} {w : Width} {rm : Rm} {v : Word}
    (h : s.writeRm p len w rm v = .ok t) :
    (∃ r, rm = .reg r ∧ t = s.regWrite w (p.rmNum r) p.hasRex v)
      ∨ ∃ m, rm = .mem m ∧ s.storeOp (s.segOf p (m.defaultSeg p)) (s.memOffset p len m) w.bytes v = .ok t := by
  cases rm with
  | reg r => left; cases h; exact ⟨r, rfl, rfl⟩
  | mem m => exact .inr ⟨m, rfl, h⟩

/-- Whatever an effect writes besides memory and general registers, memory keeps its canonical form. -/
theorem State.writeRm_wf {s t : State} {p : Prefixes} {len : Nat} {w : Width} {rm : Rm} {v : Word}
    (h : s.writeRm p len w rm v = .ok t) (hm : Memory.wf s.mem) : Memory.wf t.mem := by
  rcases State.writeRm_eq_ok h with ⟨r, -, rfl⟩ | ⟨m, -, h⟩
  · simpa using hm
  · exact State.storeOp_wf h hm

/-! ## Segment registers -/

/-- A segment load that answers writes one segment register, and at most the count of free values besides. -/
theorem State.loadSeg_eq_ok {s t : State} {r : Sreg} {sel : BitVec 16} (h : s.loadSeg r sel = .ok t) :
    ∃ d n, t = { s.setSreg r { sel := sel, hidden := d } with draws := n } := by
  have real : ∀ u : State, Except.ok (s.loadSegReal r sel) = (.ok u : Except Stop State) →
      ∃ d n, u = { s.setSreg r { sel := sel, hidden := d } with draws := n } := by
    intro u hu
    cases hu
    exact ⟨{ (s.sreg r).hidden with base := sel.setWidth 64 * 16 }, s.draws, by cases r <;> rfl⟩
  have null : ∀ q u, (.ok (s.loadNull q sel) : Except Stop State) = .ok u →
      ∃ d n, u = { s.setSreg q { sel := sel, hidden := d } with draws := n } := by
    intro q u hu; cases hu; exact ⟨_, _, rfl⟩
  have load : ∀ q (d : Desc) u, (.ok (s.setSreg q { sel := sel, hidden := d }) : Except Stop State) = .ok u →
      ∃ d n, u = { s.setSreg q { sel := sel, hidden := d } with draws := n } := by
    intro q d u hu; cases hu; exact ⟨d, s.draws, by cases q <;> rfl⟩
  have ss : ∀ u, s.loadSS sel = .ok u → ∃ d n, u = { s.setSreg .ss { sel := sel, hidden := d } with draws := n } := by
    intro u hu
    unfold State.loadSS State.loadSSDesc at hu
    repeat' split at hu
    all_goals cases hu
    all_goals first | exact null _ _ rfl | exact load _ _ _ rfl
  have data : ∀ u, s.loadData r sel = .ok u → ∃ d n, u = { s.setSreg r { sel := sel, hidden := d } with draws := n } := by
    intro u hu
    unfold State.loadData State.loadDataDesc at hu
    repeat' split at hu
    all_goals cases hu
    all_goals first | exact null _ _ rfl | exact load _ _ _ rfl
  unfold State.loadSeg at h
  split at h
  · exact real t h
  · exact real t h
  all_goals
    split at h
    · subst_vars; exact ss t h
    · exact data t h

/-! ## Control and debug registers -/

/-- A write of a control register that answers changes control registers and the TLB events only. -/
theorem State.crWrite_eq_ok {s t : State} {c : BitVec 4} {v : Word} (h : s.crWrite c v = .ok t) :
    ∃ a b d e f l, t = { s with cr0 := a, cr2 := b, cr3 := d, cr4 := e, cr8 := f, tlb := l } := by
  unfold State.crWrite at h
  split at h
  · unfold State.writeCr0 at h
    repeat' split at h
    all_goals cases h
    exact ⟨_, _, _, _, _, _, rfl⟩
  · cases h; exact ⟨_, _, _, _, _, _, rfl⟩
  · unfold State.writeCr3 at h
    repeat' split at h
    all_goals cases h
    exact ⟨_, _, _, _, _, _, rfl⟩
  · unfold State.writeCr4 at h
    repeat' split at h
    all_goals cases h
    exact ⟨_, _, _, _, _, _, rfl⟩
  · unfold State.writeCr8 at h
    repeat' split at h
    all_goals cases h
    exact ⟨_, _, _, _, _, _, rfl⟩
  · cases h

/-- A MOV from a control register that answers has passed the common checks and writes one general register. -/
theorem moveFromCr_eq_next {w : Width} {p : Prefixes} {len : Nat} {c : BitVec 4} {rm : BitVec 3} {s t : State} :
    moveFromCr w p len c rm s = .next t ↔
      s.crFault p c = none ∧ (decide (c = 4) && s.noCr4) = false
        ∧ (s.regWrite w (p.rmNum rm) false (s.crRead c)).completeUndef len = t := by
  unfold moveFromCr
  cases s.crFault p c with
  | some e => simp [raise]
  | none => cases decide (c = 4) && s.noCr4 <;> simp

/-- A MOV to a control register that answers has passed the common checks, and the write answered. -/
theorem moveToCr_eq_next {w : Width} {p : Prefixes} {len : Nat} {c : BitVec 4} {rm : BitVec 3} {s t : State} :
    moveToCr w p len c rm s = .next t ↔
      s.crFault p c = none ∧ (decide (c = 4) && s.noCr4) = false
        ∧ ∃ u, s.crWrite c (w.trunc (s.reg (p.rmNum rm))) = .ok u ∧ u.completeUndef len = t := by
  unfold moveToCr
  cases s.crFault p c with
  | some e => simp [raise]
  | none => cases decide (c = 4) && s.noCr4 <;> simp [settle_eq_next, except_map_eq_ok]

/-- A MOV from a debug register that answers has passed the common checks and writes one general register. -/
theorem moveFromDr_eq_next {w : Width} {p : Prefixes} {len : Nat} {d rm : BitVec 3} {s t : State} :
    moveFromDr w p len d rm s = .next t ↔
      s.drFault p d = none
        ∧ (s.regWrite w (p.rmNum rm) false (s.drRead (drIndex d))).completeUndef len = t := by
  unfold moveFromDr
  cases s.drFault p d <;> simp [raise]

/-- A write of a debug register that answers stores it, and sets no high bit of DR6 or DR7. -/
theorem State.drWrite_eq_ok {s t : State} {i : BitVec 3} {v : Word} :
    s.drWrite i v = .ok t ↔ ¬ ((i = 6 ∨ i = 7) ∧ v.extractLsb' 32 32 ≠ 0) ∧ s.drStore i v = t := by
  unfold State.drWrite
  by_cases h : (i = 6 ∨ i = 7) ∧ v.extractLsb' 32 32 ≠ 0
  · rw [if_pos h]; exact ⟨fun e => (nomatch e), fun e => absurd h e.1⟩
  · rw [if_neg h]; exact ⟨fun e => ⟨h, Except.ok.inj e⟩, fun e => congrArg _ e.2⟩

/-- A MOV to a debug register that answers has passed the common checks, and the write answered. -/
theorem moveToDr_eq_next {w : Width} {p : Prefixes} {len : Nat} {d rm : BitVec 3} {s t : State} :
    moveToDr w p len d rm s = .next t ↔
      s.drFault p d = none
        ∧ ∃ u, s.drWrite (drIndex d) (w.trunc (s.reg (p.rmNum rm))) = .ok u ∧ u.completeUndef len = t := by
  unfold moveToDr
  cases s.drFault p d <;> simp [raise, settle_eq_next, except_map_eq_ok]

/-! ## Steps -/

/-- A step that answers has fetched and decoded an instruction, and its meaning answered. -/
theorem step_eq_next {s t : State} (h : step s = .next t) :
    s.atEnd = false ∧ s.interruptTaken = false
      ∧ ∃ bytes i rest, s.fetch = some bytes ∧ decode s.ctx bytes = .ok (i, rest) ∧ exec i s.begin = .next t := by
  unfold step at h
  split at h
  · cases h
  · split at h
    · cases h
    · split at h
      · cases h
      · split at h
        · cases h
        · exact ⟨by simpa using ‹¬ s.atEnd = true›, by simpa using ‹¬ s.interruptTaken = true›, _, _, _, ‹_›, ‹_›, h⟩

end Sys2Proof.Machine
end

