-- ==== Sys2Proof/Laws/Access.lean ====
section
/-! SUPPORT. What a register write, a store and a load leave behind, bit by bit and byte by byte,
when a data access passes its checks and which exceptions it can raise, what a load of a segment register reads, and the
arithmetic of addresses, selectors and the instruction pointer. -/

namespace Sys2Proof.Machine

/-! ## Registers -/

theorem operandAt_eq (w n rex) : operandAt w n rex = if w = .b8 ∧ highByte n rex = true then (n-4,8) else (n,0) := by
  unfold operandAt highByte
  have : (rex = false ∧ 4 ≤ n.toNat ∧ n.toNat ≤ 7) ↔ (!rex && decide (4 ≤ n) && decide (n ≤ 7)) = true := by
    simp [BitVec.le_def]; tauto
  simp only [this]

theorem append32_bit (a : BitVec 32) (b : BitVec 32) (k : Nat) : (a ++ b :
    BitVec 64).getLsbD k = if k < 32 then b.getLsbD k else a.getLsbD (k - 32) :=
  BitVec.getLsbD_append

theorem append16_bit (a : BitVec 48) (b : BitVec 16) (k : Nat) : (a ++ b :
    BitVec 64).getLsbD k = if k < 16 then b.getLsbD k else a.getLsbD (k - 16) :=
  BitVec.getLsbD_append

theorem append8_bit (a : BitVec 56) (b : BitVec 8) (k : Nat) : (a ++ b :
    BitVec 64).getLsbD k = if k < 8 then b.getLsbD k else a.getLsbD (k - 8) :=
  BitVec.getLsbD_append

theorem append8_8_bit (a : BitVec 48) (b c : BitVec 8) (k : Nat) : (a ++ b ++ c : BitVec 64).getLsbD k =
    if k < 8 then c.getLsbD k else if k - 8 < 8 then b.getLsbD (k - 8) else a.getLsbD (k - 8 - 8) := by
  rw [append8_bit]
  congr 1
  exact BitVec.getLsbD_append

theorem registerWritten_setReg (s : State) (w n rex v) (m : BitVec 4) (u : Word) (hm : (operandAt w n rex).1 = m)
    (hu : ∀ k, k < 64 → u.getLsbD k =
      if (operandAt w n rex).2 ≤ k ∧ k < (operandAt w n rex).2 + w.bits then v.getLsbD (k - (operandAt w n rex).2)
        else if w = .b32 ∧ s.mode = .long64 then false else (s.reg m).getLsbD k) :
    registerWritten s (s.setReg m u) w n rex v := by
  intro j k hk
  rw [State.reg_setReg, hm]
  by_cases hj : m = j
  · subst hj; rw [if_pos rfl, if_pos rfl, hu k hk]
  · rw [if_neg hj, if_neg (fun h => hj h.symm)]

/-- RegWrite leaves what R25 says, in every width, mode and register. -/
theorem regWrite_written (s : State) (w n rex v) : registerWritten s (s.regWrite w n rex v) w n rex v := by
  cases w
  · show registerWritten s (if highByte n rex = true then _ else _) _ _ _ _
    by_cases h : highByte n rex = true
    · rw [if_pos h]
      have ho : operandAt .b8 n rex = (n - 4, 8) := by rw [operandAt_eq]; simp [h]
      refine registerWritten_setReg _ _ _ _ _ _ _ (by rw [ho]) fun k hk => ?_
      rw [ho, append8_8_bit]
      simp only [Width.bits, BitVec.getLsbD_extractLsb', BitVec.getLsbD_setWidth]
      rcases Nat.lt_or_ge k 8 with h8 | h8
      · simp [h8, show ¬ 8 ≤ k by omega]
      · rcases Nat.lt_or_ge k 16 with h16 | h16
        · simp [show ¬ k < 8 by omega, h8, h16, show k - 8 < 8 by omega]
        · simp [show ¬ k < 8 by omega, h8, show ¬ k < 16 by omega, show ¬ k - 8 < 8 by omega,
          show k - 8 - 8 < 48 by omega, show 16 + (k - 8 - 8) = k by omega]
    · rw [if_neg h]
      have ho : operandAt .b8 n rex = (n, 0) := by rw [operandAt_eq]; simp [h]
      refine registerWritten_setReg _ _ _ _ _ _ _ (by rw [ho]) fun k hk => ?_
      rw [ho, append8_bit]
      simp only [Width.bits, BitVec.getLsbD_extractLsb', BitVec.getLsbD_setWidth]
      rcases Nat.lt_or_ge k 8 with h8 | h8
      · simp [h8]
      · simp [show ¬ k < 8 by omega, show k - 8 < 56 by omega, show 8 + (k - 8) = k by omega]
  · have ho : operandAt .b16 n rex = (n, 0) := by rw [operandAt_eq]; simp
    refine registerWritten_setReg _ _ _ _ _ _ _ (by rw [ho]) fun k hk => ?_
    rw [ho, append16_bit]
    simp only [Width.bits, BitVec.getLsbD_extractLsb', BitVec.getLsbD_setWidth]
    rcases Nat.lt_or_ge k 16 with h8 | h8
    · simp [h8]
    · simp [show ¬ k < 16 by omega, show k - 16 < 48 by omega, show 16 + (k - 16) = k by omega]
  · have ho : operandAt .b32 n rex = (n, 0) := by rw [operandAt_eq]; simp
    show registerWritten s (if s.mode = .long64 then _ else _) _ _ _ _
    by_cases hm : s.mode = .long64
    · rw [if_pos hm]
      refine registerWritten_setReg _ _ _ _ _ _ _ (by rw [ho]) fun k hk => ?_
      rw [ho]
      simp only [Width.bits, BitVec.getLsbD_setWidth, hm, hk]
      rcases Nat.lt_or_ge k 32 with h8 | h8
      · simp [h8]
      · simp [show ¬ k < 32 by omega]
    · rw [if_neg hm]
      refine registerWritten_setReg _ _ _ _ _ _ _ (by rw [ho]) fun k hk => ?_
      rw [ho, append32_bit]
      simp only [Width.bits, BitVec.getLsbD_extractLsb', BitVec.getLsbD_setWidth]
      rcases Nat.lt_or_ge k 32 with h8 | h8
      · simp [h8]
      · simp [show ¬ k < 32 by omega, hm, show k - 32 < 32 by omega, show 32 + (k - 32) = k by omega]
  · have ho : operandAt .b64 n rex = (n, 0) := by rw [operandAt_eq]; simp
    refine registerWritten_setReg _ _ _ _ _ _ _ (by rw [ho]) fun k hk => ?_
    rw [ho]; simp [Width.bits, hk]

theorem registerWritten_congr (s t : State) (w n rex v u) (h : ∀ k, k < w.bits → v.getLsbD k = u.getLsbD k)
    (H : registerWritten s t w n rex v) : registerWritten s t w n rex u := by
  intro j k hk
  rw [H j k hk]
  split
  · split
    · rename_i h1 h2; exact h _ (by omega)
    · rfl
  · rfl

theorem registerWritten_of_reg (s t t' : State) (w n rex v) (h : ∀ j, t'.reg j = t.reg j)
    (H : registerWritten s t w n rex v) : registerWritten s t' w n rex v := by
  intro j k hk; rw [h]; exact H j k hk

/-- RegRead answers the operand's bits (R24). -/
theorem regRead_operand (s : State) (w n rex k) (hk : k < w.bits) :
    (s.regRead w n rex).getLsbD k = (s.operand w n rex).getLsbD k := by
  unfold State.operand
  rw [operandAt_eq]
  cases w <;> simp only [State.regRead, Width.bits, Width.trunc] at *
  · by_cases h : highByte n rex = true
    · simp [h, show k < 64 by omega, hk]
    · simp [h, show k < 64 by omega, hk]
  · simp [show k < 64 by omega, hk]
  · simp [show k < 64 by omega, hk]
  · simp

/-! ## Stores and loads -/

theorem byteAddr_inj (s : State) (phys : Word) (k j : Nat) (hk : k < 8) (hj : j < 8) (h :
    s.byteAddr phys k = s.byteAddr phys j) : k = j := by
  unfold State.byteAddr at h
  split at h
  · simp only [BitVec.toNat_add, BitVec.toNat_ofNat] at h; omega
  · simp only [Width.trunc, BitVec.toNat_setWidth, BitVec.toNat_add, BitVec.toNat_ofNat] at h; omega

theorem byteAddrs_nodup (s : State) (phys : Word) (n : Nat) (hn : n ≤ 8) : (s.byteAddrs phys n).Nodup := by
  unfold State.byteAddrs
  refine List.Nodup.map_on ?_ List.nodup_range
  intro a ha b hb h
  exact byteAddr_inj s phys a b (by simp at ha; omega) (by simp at hb; omega) h

/-- Writing the bytes of an access leaves them there, and every other byte as before (R75). -/
theorem bytesWritten_writeAll (s t : State) (phys : Word) (n : Nat) (v : Word) (hn : n ≤ 8) (hm : Memory.wf s.mem)
   (ht : t.mem = s.mem.writeAll ((s.byteAddrs phys n).zip (leBytes n v))) : bytesWritten s t phys n v := by
  have hz : ((s.byteAddrs phys n).zip (leBytes n v)).map Prod.fst = s.byteAddrs phys n := by
    rw [List.map_fst_zip]; simp [State.byteAddrs, leBytes]
  constructor
  · intro k hk
    rw [ht]
    have : (s.byteAddr phys k, byteOf v k) ∈ (s.byteAddrs phys n).zip (leBytes n v) := by
      unfold State.byteAddrs leBytes
      rw [List.zip_map']
      exact List.mem_map.2 ⟨k, by simpa using hk, rfl⟩
    exact Memory.read_writeAll_of_mem _ _ _ hm (by rw [hz]; exact byteAddrs_nodup _ _ _ hn) this
  · intro a ha
    rw [ht]
    refine Memory.read_writeAll_of_not_mem _ _ _ hm ?_
    rw [hz]
    intro h
    simp only [State.byteAddrs, List.mem_map, List.mem_range] at h
    obtain ⟨k, hk, rfl⟩ := h
    exact ha k hk rfl

/-- StoreOp answers when its access passes and its bytes miss the text (R71, R89). -/
theorem storeOp_of_access (s : State) (r off n v phys) (ha : s.access r off n .write = .ok phys) (hh :
    s.hitsText (s.linear r off) n = false) :
   s.storeOp r off n v = .ok { s with mem := s.mem.writeAll ((s.byteAddrs phys n).zip (leBytes n v)) } := by
  unfold State.storeOp; rw [ha]; simp [hh]

/-- LoadOp answers when its access passes (R70). -/
theorem loadOp_of_access (s : State) (r off n phys) (ha : s.access r off n .read = .ok phys) :
   s.loadOp r off n = .ok (leValue ((s.byteAddrs phys n).map s.mem.read)) := by
  unfold State.loadOp; rw [ha]

theorem leValue_byte (l : List Byte) (k : Nat) (hl : l.length ≤ 8) (hk : k < l.length) : byteOf
    (leValue l) k = l[k] := by
  induction l generalizing k with
  | nil => simp at hk
  | cons b bs ih =>
    simp only [List.length_cons] at hl hk
    unfold byteOf leValue
    cases k with
    | zero =>
      ext i hi
      simp [hi, show i < 64 by omega]
    | succ k =>
      have := ih k (by omega) (by omega)
      simp only [List.getElem_cons_succ, ← this]
      unfold byteOf
      apply BitVec.eq_of_getLsbD_eq
      intro i hi
      simp only [BitVec.getLsbD_extractLsb', BitVec.getLsbD_or, BitVec.getLsbD_shiftLeft, BitVec.getLsbD_setWidth]
      have h1 : 8 * (k+1) + i < 64 := by omega
      have h2 : ¬ 8 * (k+1) + i < 8 := by omega
      have h3 : b.getLsbD (8 * (k+1) + i) = false := BitVec.getLsbD_of_ge _ _ (by omega)
      have h4 : 8 * (k+1) + i - 8 = 8 * k + i := by omega
      simp [h1, h3, h4, hi]
      omega

/-- The value of bytes, byte by byte (R75). -/
theorem bytesRead_leValue (s : State) (phys : Word) (n : Nat) (hn : n ≤ 8) : bytesRead s phys n
    (leValue ((s.byteAddrs phys n).map s.mem.read)) := by
  intro k hk
  rw [leValue_byte] <;> simp [State.byteAddrs, hn, hk]

theorem width_bytes_le (w : Width) : w.bytes ≤ 8 := by cases w <;> decide

theorem width_bits_eq (w : Width) : w.bits = 8 * w.bytes := by cases w <;> rfl

/-! ## The checks of a data access -/

/-- An access passes when neither stage fails and every byte exists (R70, R71, R83). -/
theorem access_of_checks (s : State) (r off n acc phys) (h1 : s.segFault r off n acc = none) (h2 :
    s.unreadable r acc = false)
   (h3 : s.pageStage (s.linear r off) n acc = .ok phys) (h4 : ∀ k, k < n → s.isMapped (s.byteAddr phys k) = true) :
     s.access r off n acc = .ok phys := by
  unfold State.access
  rw [h1]; simp only [h2, h3]
  have : (s.byteAddrs phys n).find? (fun a => !s.isMapped a) = none := by
    rw [List.find?_eq_none]
    intro a ha
    simp only [State.byteAddrs, List.mem_map, List.mem_range] at ha
    obtain ⟨k, hk, rfl⟩ := ha
    simp [h4 k hk]
  rw [this]; rfl

theorem misaligned_iff (s : State) (lin n) : s.misaligned lin n = true ↔ (s.cr0.getLsbD 18 = true ∧
    s.flags.ac = true ∧ s.cpl = 3 ∧ lin.toNat % n ≠ 0) := by
  unfold State.misaligned State.alignChecked cr0AM
  simp [and_assoc]

theorem pageStage_of_checks (s : State) (lin n acc phys) (h : ¬ (s.cr0.getLsbD 18 = true ∧ s.flags.ac = true ∧
    s.cpl = 3 ∧ lin.toNat % n ≠ 0))
  (hp : s.pageCheck lin n acc = .ok phys) (hr : s.mode ≠ .real) : s.pageStage lin n acc = .ok phys := by
  unfold State.pageStage
  rw [if_neg hr, hp, Bool.eq_false_iff.2 (fun e => h ((misaligned_iff _ _ _).1 e))]

/-- A selector is NULL when it is 0 to 3 (R35). -/
theorem isNull_iff (sel : BitVec 16) : isNull sel = true ↔ sel.toNat < 4 := by
  unfold isNull
  rw [beq_iff_eq]
  constructor
  · intro h
    have := congrArg BitVec.toNat h
    rw [BitVec.extractLsb'_toNat] at this
    simp [Nat.shiftRight_eq_div_pow] at this; omega
  · intro h; apply BitVec.eq_of_toNat_eq; rw [BitVec.extractLsb'_toNat]; simp [Nat.shiftRight_eq_div_pow]; omega

/-- An address is canonical when bits 63 down to VA_BITS - 1 are equal (R69). -/
theorem canonical_iff (va : Nat) (a : Word) : canonical va a = true ↔
    ∀ k, va - 1 ≤ k → k < 64 → a.getLsbD k = a.getLsbD 63 := by
  unfold canonical
  generalize va - 1 = m
  rw [Bool.or_eq_true, beq_iff_eq, beq_iff_eq]
  have hb : ∀ i, i < 64 → (a.sshiftRight m).getLsbD i = if m + i < 64 then a.getLsbD (m + i) else a.getLsbD 63 := by
    intro i hi
    rw [BitVec.getLsbD_sshiftRight]
    simp only [show ¬ 64 ≤ i by omega, decide_false, Bool.not_false, Bool.true_and]
    rfl
  have h63 : m < 64 → (63 - m < 64 ∧ m + (63 - m) = 63) := by omega
  constructor
  · rintro (h | h) k h1 h2
    · have e1 := hb (k - m) (by omega)
      have e2 := hb (63 - m) (by omega)
      rw [h] at e1 e2
      rw [if_pos (by omega), show m + (k - m) = k by omega] at e1
      rw [if_pos (by omega), show m + (63 - m) = 63 by omega] at e2
      rw [← e1, ← e2]; simp
    · have e1 := hb (k - m) (by omega)
      have e2 := hb (63 - m) (by omega)
      rw [h] at e1 e2
      rw [if_pos (by omega), show m + (k - m) = k by omega] at e1
      rw [if_pos (by omega), show m + (63 - m) = 63 by omega] at e2
      rw [← e1, ← e2, BitVec.getLsbD_allOnes, BitVec.getLsbD_allOnes]; simp; omega
  · intro h
    have hall : ∀ i, i < 64 → (a.sshiftRight m).getLsbD i = a.getLsbD 63 := by
      intro i hi; rw [hb i hi]; split
      · exact h _ (by omega) (by omega)
      · rfl
    cases h63 : a.getLsbD 63
    · left; apply BitVec.eq_of_getLsbD_eq; intro i hi; rw [hall i hi, h63]; simp
    · right; apply BitVec.eq_of_getLsbD_eq; intro i hi; rw [hall i hi, h63, BitVec.getLsbD_allOnes]; simp [hi]

theorem nullFault_cases (s : State) (r) : s.nullFault r = none ∨ (s.nullFault r = some s.gp0 ∧ r ≠ .ss) := by
  unfold State.nullFault; cases r <;> simp

theorem limitFault_cases (s : State) (r off n) : s.limitFault r off n = none ∨
    (s.limitFault r off n = some (s.outside r) ∧ (s.sreg r).hidden.limit.contains off.toNat n = false) := by
  unfold State.limitFault; cases Limit.contains _ _ _ <;> simp

theorem writeFault_cases (s : State) (r acc) : s.writeFault r acc = none ∨ s.writeFault r acc = some s.gp0 := by
  unfold State.writeFault; split <;> simp

/-- The exceptions a data access can raise (R66 to R69, R73, R78). -/
theorem access_exception (s : State) (r off n acc e) (h : s.access r off n acc = .error (.exception e)) :
    e = .gp s.zeroCode ∨ e = .ss s.zeroCode ∨ (s.mode ≠ .real ∧ (e = .ac ∨ ∃ code, e = .pf code)) := by
  unfold State.access at h
  split at h
  · rename_i e' he
    cases h
    have ho : s.outside r = .gp s.zeroCode ∨ s.outside r = .ss s.zeroCode := by unfold State.outside; split <;> simp
    have hei : ∀ a b e, s.eitherFault a b = some e → a = some e ∨ b = some e := by
      intro a b e h; unfold State.eitherFault at h; (repeat' split at h) <;> simp_all
    have hl : s.limitFault r off n = some e → e = .gp s.zeroCode ∨ e = .ss s.zeroCode := by
      intro h; rcases limitFault_cases s r off n with h' | ⟨h', -⟩ <;> rw [h'] at h <;> cases h; exact ho
    have hw : s.writeFault r acc = some e → e = .gp s.zeroCode := by
      intro h; rcases writeFault_cases s r acc with h' | h' <;> rw [h'] at h <;> cases h; rfl
    have hn : s.nullFault r = some e → e = .gp s.zeroCode := by
      intro h; rcases nullFault_cases s r with h' | ⟨h', -⟩ <;> rw [h'] at h <;> cases h; rfl
    have hcn : s.canonicalFault r off n = some e → e = .gp s.zeroCode ∨ e = .ss s.zeroCode := by
      unfold State.canonicalFault; split
      · intro h; cases h
      · intro h; cases h; exact ho
    unfold State.segFault at he
    split at he
    · rcases hl he with h | h <;> simp [h]
    · rcases hl he with h | h <;> simp [h]
    · rcases hei _ _ _ he with h | h
      · rcases hei _ _ _ h with h | h
        · simp [hn h]
        · rcases hl h with h | h <;> simp [h]
      · simp [hw h]
    · rcases hei _ _ _ he with h | h
      · rcases hei _ _ _ h with h | h
        · simp [hn h]
        · rcases hl h with h | h <;> simp [h]
      · simp [hw h]
    · rcases hcn he with h | h <;> simp [h]
  · split at h
    · cases h
    · split at h
      · rename_i e' he
        cases h
        right; right
        unfold State.pageStage at he
        split at he
        · cases he
        · refine ⟨‹_›, ?_⟩
          split at he <;> cases he
          · simp
          · exact .inr ⟨_, rfl⟩
          · cases Config.drawBit s.draws
            · exact .inr ⟨_, rfl⟩
            · left; rfl
      · split at h <;> cases h

theorem settle_eq_fault {s : State} {r : Except Stop State} {f : Fault} (h : settle s r = .fault f) : ∃ e, r = .error
    (.exception e) ∧ f = .exception e { s with intShadow := false } := by
  unfold settle at h
  rcases r with (e | q) | u
  · cases h; exact ⟨e, rfl, rfl⟩
  · cases h
  · cases h

theorem settle_eq_refused {s : State} {r : Except Stop State} {f : Refusal} (h : settle s r = .refused f) :
    r = .error (.refusal f) := by
  unfold settle at h
  rcases r with (e | q) | u
  · cases h
  · cases h; rfl
  · cases h

theorem except_map_eq_error {α β : Type} {r : Except Stop α} {f : α → β} {e} (h : r.map f = .error e) :
    r = .error e := by
  cases r <;> cases h; rfl

/-! ## The instruction pointer -/

/-- The instruction pointer is counted modulo its width (R29). -/
theorem pcWrap_toNat (s : State) (a : Word) : (s.pcWrap a).toNat = a.toNat % (if s.mode = .long64 then 2 ^ 64
            else if s.mode = .real ∨ s.mode = .v86 ∨ s.csD = .bits16 then 2 ^ 16 else 2 ^ 32) := by
  unfold State.pcWrap
  have := a.isLt
  cases s.mode <;> cases s.csD <;> simp [Width.trunc] <;> omega

/-! ## Linear addresses and the program text -/

/-- A linear address is counted modulo its width (R64, R65). -/
theorem linWrap_toNat (s : State) (a : Word) :
    (s.linWrap a).toNat = a.toNat % (if s.mode = .long64 then 2 ^ 64 else 2 ^ 32) := by
  unfold State.linWrap
  split
  · have := a.isLt; omega
  · simp [Width.trunc]; omega

theorem linWrap_linear (s : State) (r off) : s.linWrap (s.linear r off) = s.linear r off := by
  apply BitVec.eq_of_toNat_eq
  unfold State.linear; rw [linWrap_toNat, linWrap_toNat]; split <;> omega

/-- The linear address of byte k of an operand is that of its offset plus k. -/
theorem linWrap_linear_add (s : State) (r) (off : Word) (k : Nat) :
    s.linWrap (s.linear r off + BitVec.ofNat 64 k) = s.linear r (off + BitVec.ofNat 64 k) := by
  apply BitVec.eq_of_toNat_eq
  unfold State.linear
  rw [linWrap_toNat, linWrap_toNat, BitVec.toNat_add, linWrap_toNat, BitVec.toNat_add, BitVec.toNat_add,
    BitVec.toNat_add]
  split <;> omega

theorem ipModulus_cases (s : State) (m : Nat)
    (h : m = (if s.mode = .long64 then 2 ^ 64
      else if s.mode = .real ∨ s.mode = .v86 ∨ s.csD = .bits16 then 2 ^ 16 else 2 ^ 32)) :
    (s.mode = .long64 ∧ m = 2 ^ 64) ∨ (s.mode ≠ .long64 ∧ (m = 2 ^ 16 ∨ m = 2 ^ 32)) := by
  subst h; split
  · exact .inl ⟨‹_›, rfl⟩
  · right; refine ⟨‹_›, ?_⟩; split <;> simp

/-- A linear address holds a byte of the text when it is that of an offset of the text (R342, log 9). -/
theorem inText_iff (s : State) (lin : Word) (hlin : s.linWrap lin = lin) (m : Nat)
    (hm : m = (if s.mode = .long64 then 2 ^ 64
      else if s.mode = .real ∨ s.mode = .v86 ∨ s.csD = .bits16 then 2 ^ 16 else 2 ^ 32)) :
    s.inText lin = true ↔ ∃ (j : Nat) (o : Word), j < s.text.bytes.length
      ∧ o.toNat = (s.text.start.toNat + j) % m ∧ lin = s.linear .cs o := by
  have hc := ipModulus_cases s m hm
  unfold State.inText
  rw [Bool.and_eq_true, decide_eq_true_eq, decide_eq_true_eq]
  unfold State.textIndex State.linear
  rw [pcWrap_toNat, ← hm]
  have hl := congrArg BitVec.toNat hlin
  rw [linWrap_toNat] at hl
  constructor
  · rintro ⟨h1, h2⟩
    refine ⟨_, s.linWrap (lin - s.segBase .cs), h2, ?_, ?_⟩
    · have h1 := congrArg BitVec.toNat h1
      rw [pcWrap_toNat, ← hm] at h1
      generalize s.linWrap (lin - s.segBase .cs) = o at *
      rw [BitVec.toNat_sub]
      have := o.isLt; have := s.text.start.isLt
      rcases hc with ⟨-, h⟩ | ⟨-, h | h⟩ <;> rw [h] at h1 ⊢ <;> omega
    · apply BitVec.eq_of_toNat_eq
      rw [linWrap_toNat, BitVec.toNat_add, linWrap_toNat, BitVec.toNat_sub]
      have := lin.isLt; have := (s.segBase .cs).isLt
      by_cases hm : s.mode = .long64
      · simp only [if_pos hm] at hl ⊢; omega
      · simp only [if_neg hm] at hl ⊢; omega
  · rintro ⟨j, o, hj, ho, rfl⟩
    have e : s.linWrap (s.linWrap (s.segBase .cs + o) - s.segBase .cs) = o := by
      apply BitVec.eq_of_toNat_eq
      rw [linWrap_toNat, BitVec.toNat_sub, linWrap_toNat, BitVec.toNat_add]
      have := o.isLt; have := (s.segBase .cs).isLt
      rcases hc with ⟨hm, h⟩ | ⟨hm, h | h⟩ <;> rw [h] at ho <;> simp only [hm] <;> simp <;> omega
    rw [e]
    constructor
    · apply BitVec.eq_of_toNat_eq
      rw [pcWrap_toNat, ← hm]
      rcases hc with ⟨-, h⟩ | ⟨-, h | h⟩ <;> rw [h] at ho ⊢ <;> omega
    · rw [BitVec.toNat_sub]
      have := s.text.start.isLt
      rcases hc with ⟨-, h⟩ | ⟨-, h | h⟩ <;> rw [h] at ho ⊢ <;> omega

/-! ## Loads of a segment register -/

theorem byteOf_low (v : Word) (k : Nat) (hk : k < 2) : byteOf ((v.setWidth 16).setWidth 64) k = byteOf v k := by
  unfold byteOf
  apply BitVec.eq_of_getLsbD_eq
  intro j hj
  rw [BitVec.getLsbD_extractLsb', BitVec.getLsbD_extractLsb', BitVec.getLsbD_setWidth, BitVec.getLsbD_setWidth]
  simp [hj, show 8 * k + j < 64 by omega, show 8 * k + j < 16 by omega]

/-- What a MOV to a segment register can do (R206, R220): #UD; stop at its data access; or load the selector it reads. -/
theorem moveToSreg_cases (s : State) (p : Prefixes) (len g rm) :
    moveToSreg p len g rm s = raise .ud s
      ∨ (∃ st m, rm = .mem m ∧ s.access (s.segOf p (m.defaultSeg p)) (s.memOffset p len m) 2 .read = .error st
        ∧ moveToSreg p len g rm s = settle s (.error st))
      ∨ ∃ r sel, sregOf g = some r ∧ r ≠ .cs ∧ selectorSource s p len rm sel
        ∧ moveToSreg p len g rm s = settle s ((s.loadSeg r sel).map fun t => t.completeLoad r len) := by
  unfold moveToSreg
  split
  · exact .inl rfl
  split
  · exact .inl rfl
  · exact .inl rfl
  rename_i r hr hg
  cases rm with
  | reg k =>
    refine .inr (.inr ⟨r, _, hg, fun h => hr (by rw [h]), ?_, rfl⟩)
    show _ = _
    unfold State.regRead Width.trunc
    apply BitVec.eq_of_getLsbD_eq
    intro j hj
    simp [hj, show j < 64 by omega]
  | mem m =>
    cases ha : s.access (s.segOf p (m.defaultSeg p)) (s.memOffset p len m) 2 .read with
    | error st =>
      refine .inr (.inl ⟨st, m, rfl, ha, ?_⟩)
      show settle s (match s.loadOp _ _ 2 with | .error e => .error e | .ok v => _) = _
      unfold State.loadOp; rw [ha]
    | ok phys =>
      refine .inr (.inr ⟨r, (leValue ((s.byteAddrs phys 2).map s.mem.read)).setWidth 16, hg, fun h => hr (by rw [h]), ?_, ?_⟩)
      · refine ⟨phys, ha, fun k hk => ?_⟩
        rw [byteOf_low _ _ hk, bytesRead_leValue s phys 2 (by decide) k hk]
      · show settle s (match s.loadOp _ _ 2 with | .error e => .error e | .ok v => _) = _
        rw [loadOp_of_access _ _ _ _ _ ha]

end Sys2Proof.Machine
end

