-- ==== Sys2Proof/Laws/Decode.lean ====
section
/-! SUPPORT. What each reading operation of the decoder answers on the bytes the encoder writes, and, the other way,
  what
the bytes were when it answers. -/

namespace Sys2Proof

open Sys2Proof.Machine

/-! ## Bytes of a value -/

theorem append_byte_low {n : Nat} (a : BitVec n) (b : Byte) : (a ++ b).extractLsb' 0 8 = b := by
  apply BitVec.eq_of_getLsbD_eq; intro i hi
  simp only [BitVec.getLsbD_extractLsb', BitVec.getLsbD_append, hi, decide_true, Bool.true_and, Nat.zero_add, if_true]

theorem append_byte_rest {n : Nat} (a : BitVec n) (b : Byte) (k : Nat) : (a ++ b).extractLsb'
    (8 + k) 8 = a.extractLsb' k 8 := by
  apply BitVec.eq_of_getLsbD_eq; intro i hi
  simp only [BitVec.getLsbD_extractLsb', BitVec.getLsbD_append, hi, decide_true, Bool.true_and]
  rw [if_neg (by omega)]; congr 1; omega

theorem extract_byte_self (a : Byte) : a.extractLsb' 0 8 = a := by
  apply BitVec.eq_of_getLsbD_eq; intro i hi
  simp [hi]

theorem extract_append_byte {n : Nat} (v : BitVec (n + 8)) : (v.extractLsb' 8 n ++ v.extractLsb' 0 8) = v := by
  apply BitVec.eq_of_getLsbD_eq; intro i hi
  simp only [BitVec.getLsbD_append, BitVec.getLsbD_extractLsb']
  split
  · simp [*]
  · simp [show i - 8 < n by omega, show 8 + (i - 8) = i by omega]

theorem extract_extract {n : Nat} (v : BitVec n) (a b m k : Nat) (h : b + k ≤ m) :
    (v.extractLsb' a m).extractLsb' b k = v.extractLsb' (a + b) k := by
  apply BitVec.eq_of_getLsbD_eq; intro i hi
  simp [hi, show b + i < m by omega, Nat.add_assoc]

/-- A value is its two bytes. -/
theorem bytes2_append (v : BitVec 16) : (v.extractLsb' 8 8 ++ v.extractLsb' 0 8 :
    BitVec 16) = v := extract_append_byte (n := 8) v

theorem bytes3_append (v : BitVec 24) : (v.extractLsb' 16 8 ++ v.extractLsb' 8 8 ++ v.extractLsb' 0 8 :
    BitVec 24) = v := by
  have := extract_append_byte (n := 16) v
  rw [← bytes2_append (v.extractLsb' 8 16), extract_extract _ _ _ _ _ (by omega), extract_extract _ _ _ _ _
    (by omega)] at this
  exact this

/-- A value is its four bytes. -/
theorem bytes4_append (v : BitVec 32) : (v.extractLsb' 24 8 ++ v.extractLsb' 16 8 ++ v.extractLsb' 8 8 ++
    v.extractLsb' 0 8 : BitVec 32) = v := by
  have := extract_append_byte (n := 24) v
  rw [← bytes3_append (v.extractLsb' 8 24), extract_extract _ _ _ _ _ (by omega), extract_extract _ _ _ _ _
    (by omega), extract_extract _ _ _ _ _ (by omega)] at this
  exact this

theorem bytes5_append (v : BitVec 40) : (v.extractLsb' 32 8 ++ v.extractLsb' 24 8 ++ v.extractLsb' 16 8 ++
    v.extractLsb' 8 8 ++ v.extractLsb' 0 8 : BitVec 40) = v := by
  have := extract_append_byte (n := 32) v
  rw [← bytes4_append (v.extractLsb' 8 32)] at this
  iterate 4 rw [extract_extract _ _ _ _ _ (by omega)] at this
  exact this

theorem bytes6_append (v : BitVec 48) : (v.extractLsb' 40 8 ++ v.extractLsb' 32 8 ++ v.extractLsb' 24 8 ++
    v.extractLsb' 16 8 ++ v.extractLsb' 8 8 ++ v.extractLsb' 0 8 : BitVec 48) = v := by
  have := extract_append_byte (n := 40) v
  rw [← bytes5_append (v.extractLsb' 8 40)] at this
  iterate 5 rw [extract_extract _ _ _ _ _ (by omega)] at this
  exact this

theorem bytes7_append (v : BitVec 56) : (v.extractLsb' 48 8 ++ v.extractLsb' 40 8 ++ v.extractLsb' 32 8 ++
    v.extractLsb' 24 8 ++ v.extractLsb' 16 8 ++ v.extractLsb' 8 8 ++ v.extractLsb' 0 8 : BitVec 56) = v := by
  have := extract_append_byte (n := 48) v
  rw [← bytes6_append (v.extractLsb' 8 48)] at this
  iterate 6 rw [extract_extract _ _ _ _ _ (by omega)] at this
  exact this

/-- A value is its eight bytes. -/
theorem bytes8_append (v : BitVec 64) : (v.extractLsb' 56 8 ++ v.extractLsb' 48 8 ++ v.extractLsb' 40 8 ++
    v.extractLsb' 32 8 ++ v.extractLsb' 24 8 ++ v.extractLsb' 16 8 ++ v.extractLsb' 8 8 ++ v.extractLsb' 0 8 :
    BitVec 64) = v := by
  have := extract_append_byte (n := 56) v
  rw [← bytes7_append (v.extractLsb' 8 56)] at this
  iterate 7 rw [extract_extract _ _ _ _ _ (by omega)] at this
  exact this

/-- The three fields of a ModR/M or SIB byte. -/
theorem fieldsByte_fields (hi : BitVec 2) (mid lo : BitVec 3) :
   (fieldsByte hi mid lo).extractLsb' 6 2 = hi ∧ (fieldsByte hi mid lo).extractLsb' 3 3 = mid ∧
     (fieldsByte hi mid lo).extractLsb' 0 3 = lo := by
  revert hi mid lo; decide

/-- A ModR/M or SIB byte is its three fields. -/
theorem fieldsByte_self : ∀ b : Byte, fieldsByte (b.extractLsb' 6 2) (b.extractLsb' 3 3)
    (b.extractLsb' 0 3) = b := by decide

/-! ## Immediates, displacements, direct offsets -/

theorem le16_bytes16 (v bs) : le16 (bytes16 v ++ bs) = .ok (v, bs) := by
  show Except.ok (_, bs) = _; rw [bytes2_append]

theorem le32_bytes32 (v bs) : le32 (bytes32 v ++ bs) = .ok (v, bs) := by
  show Except.ok (_, bs) = _; rw [bytes4_append]

theorem le64_bytes64 (v bs) : le64 (bytes64 v ++ bs) = .ok (v, bs) := by
  show Except.ok (_, bs) = _; rw [bytes8_append]

/-- A direct offset of the address size is read back. -/
theorem readMoffs_bytes (a : AddrSize) (off : Moffs) (bs) (h : off.wf a = true) : readMoffs a (off.bytes ++ bs) = .ok
    (off, bs) := by
  cases off <;> simp [Moffs.wf] at h <;> subst h <;> simp [readMoffs, Moffs.bytes, le16_bytes16, le32_bytes32,
    le64_bytes64, Except.map]

theorem readDisp16_bytes (d : Disp16) (bs) : readDisp16 d.mod (d.bytes ++ bs) = .ok (d, bs) := by
  cases d
  · rfl
  · rfl
  · rename_i v; show (le16 (bytes16 v ++ bs)).map (fun (v, bs) => (Disp16.d16 v, bs)) = _; rw [le16_bytes16]; rfl

theorem readDisp32_bytes (d : Disp32) (bs) : readDisp32 d.mod (d.bytes ++ bs) = .ok (d, bs) := by
  cases d
  · rfl
  · rfl
  · rename_i v; show (le32 (bytes32 v ++ bs)).map (fun (v, bs) => (Disp32.d32 v, bs)) = _; rw [le32_bytes32]; rfl

theorem disp16_mod (d : Disp16) : d.mod ≠ 3 ∧ (d.mod = 0 ↔ d = .none) := by cases d <;> simp [Disp16.mod]

theorem disp32_mod (d : Disp32) : d.mod ≠ 3 ∧ (d.mod = 0 ↔ d = .none) := by cases d <;> simp [Disp32.mod]

theorem le8_eq_ok (bs v rest) (h : le8 bs = .ok (v, rest)) : [v] ++ rest = bs := by
  unfold le8 at h; split at h
  · cases h; rfl
  · cases h

theorem le16_eq_ok (bs v rest) (h : le16 bs = .ok (v, rest)) : bytes16 v ++ rest = bs := by
  unfold le16 at h; split at h
  · cases h; unfold bytes16
    rw [append_byte_low, append_byte_rest _ _ 0, extract_byte_self]; rfl
  · cases h

theorem le32_eq_ok (bs v rest) (h : le32 bs = .ok (v, rest)) : bytes32 v ++ rest = bs := by
  unfold le32 at h; split at h
  · cases h; unfold bytes32
    rw [append_byte_low, append_byte_rest _ _ 0, append_byte_rest _ _ 8, append_byte_rest _ _ 16, append_byte_low,
      append_byte_rest _ _ 0, append_byte_rest _ _ 8, append_byte_low, append_byte_rest _ _ 0, extract_byte_self]; rfl
  · cases h

theorem le64_eq_ok (bs v rest) (h : le64 bs = .ok (v, rest)) : bytes64 v ++ rest = bs := by
  unfold le64 at h; split at h
  · cases h; unfold bytes64
    rw [append_byte_low, append_byte_rest _ _ 0, append_byte_rest _ _ 8, append_byte_rest _ _ 16,
      append_byte_rest _ _ 24, append_byte_rest _ _ 32, append_byte_rest _ _ 40, append_byte_rest _ _ 48]
    rw [append_byte_low, append_byte_rest _ _ 0, append_byte_rest _ _ 8, append_byte_rest _ _ 16,
      append_byte_rest _ _ 24, append_byte_rest _ _ 32, append_byte_rest _ _ 40]
    rw [append_byte_low, append_byte_rest _ _ 0, append_byte_rest _ _ 8, append_byte_rest _ _ 16,
      append_byte_rest _ _ 24, append_byte_rest _ _ 32]
    rw [append_byte_low, append_byte_rest _ _ 0, append_byte_rest _ _ 8, append_byte_rest _ _ 16,
      append_byte_rest _ _ 24]
    rw [append_byte_low, append_byte_rest _ _ 0, append_byte_rest _ _ 8, append_byte_rest _ _ 16]
    rw [append_byte_low, append_byte_rest _ _ 0, append_byte_rest _ _ 8]
    rw [append_byte_low, append_byte_rest _ _ 0, extract_byte_self]
    rfl
  · cases h

/-- What a direct offset was read from. -/
theorem readMoffs_eq_ok (a bs v rest) (h : readMoffs a bs = .ok (v, rest)) : v.bytes ++ rest = bs ∧ v.wf a = true := by
  cases a <;> (
    obtain ⟨⟨u, r⟩, h1, h2⟩ := except_map_eq_ok.1 h
    cases h2
    first | exact ⟨le16_eq_ok _ _ _ h1, rfl⟩ | exact ⟨le32_eq_ok _ _ _ h1, rfl⟩ | exact ⟨le64_eq_ok _ _ _ h1, rfl⟩)

theorem readDisp16_eq_ok (mod bs d rest) (h : readDisp16 mod bs = .ok (d, rest)) (hm : mod ≠ 3) : d.mod = mod ∧
    d.bytes ++ rest = bs := by
  have : ∀ m : BitVec 2, m ≠ 3 → m ≠ 0 → m ≠ 1 → 2 = m := by decide
  unfold readDisp16 at h
  split at h
  · cases h; exact ⟨Eq.symm ‹_›, rfl⟩
  split at h
  all_goals
    obtain ⟨⟨u, r⟩, h1, h2⟩ := except_map_eq_ok.1 h
    cases h2
  · exact ⟨Eq.symm ‹_›, le8_eq_ok _ _ _ h1⟩
  · exact ⟨this _ hm ‹_› ‹_›, le16_eq_ok _ _ _ h1⟩

theorem readDisp32_eq_ok (mod bs d rest) (h : readDisp32 mod bs = .ok (d, rest)) (hm : mod ≠ 3) : d.mod = mod ∧
    d.bytes ++ rest = bs := by
  have : ∀ m : BitVec 2, m ≠ 3 → m ≠ 0 → m ≠ 1 → 2 = m := by decide
  unfold readDisp32 at h
  split at h
  · cases h; exact ⟨Eq.symm ‹_›, rfl⟩
  split at h
  all_goals
    obtain ⟨⟨u, r⟩, h1, h2⟩ := except_map_eq_ok.1 h
    cases h2
  · exact ⟨Eq.symm ‹_›, le8_eq_ok _ _ _ h1⟩
  · exact ⟨this _ hm ‹_› ‹_›, le32_eq_ok _ _ _ h1⟩

/-! ## ModR/M and SIB -/

theorem readModRm_fieldsByte (a mod reg rm bs) : readModRm a (fieldsByte mod reg rm :: bs) =
   if mod = 3 then .ok (reg, .reg rm, bs) else (readMem a mod rm bs).map fun (f, bs) => (reg, .mem f, bs) := by
  have F := fieldsByte_fields mod reg rm
  rw [readModRm, F.1, F.2.1, F.2.2]

theorem readSib_fieldsByte (mod s i b bs) : readSib mod (fieldsByte s i b :: bs) =
    if mod = 0 ∧ b = 5 then (le32 bs).map fun (v, bs) => (.sibNoBase s i v, bs)
    else (readDisp32 mod bs).map fun (d, bs) => (.sib s i b d, bs) := by
  have F := fieldsByte_fields s i b
  rw [readSib, F.1, F.2.1, F.2.2]

theorem readModRm_memForm (a : AddrSize) (reg) (m : MemForm) (bs) (h : m.wf a = true) : readModRm a (m.bytes reg ++
    bs) = .ok (reg, .mem m, bs) := by
  have n16 : ∀ {a : AddrSize} mod rm bs, a ≠ .a16 → readMem a mod rm bs = readMem32 mod rm bs := by
    intro a mod rm bs h; cases a <;> first | exact absurd rfl h | rfl
  have F := fieldsByte_fields
  cases m with
  | regs16 rm d =>
    simp [MemForm.wf] at h
    obtain ⟨rfl, h⟩ := h
    have D := disp16_mod d
    show readModRm .a16 (fieldsByte d.mod reg rm :: (d.bytes ++ bs)) = _
    rw [readModRm_fieldsByte, if_neg D.1]
    show (readMem16 d.mod rm (d.bytes ++ bs)).map _ = _
    unfold readMem16
    rw [if_neg (by rw [D.2]; tauto), readDisp16_bytes]; rfl
  | abs16 v =>
    simp [MemForm.wf] at h
    subst h
    show readModRm .a16 (fieldsByte 0 reg 6 :: (bytes16 v ++ bs)) = _
    rw [readModRm_fieldsByte, if_neg (by decide)]
    have : readMem .a16 0 6 (bytes16 v ++ bs) = .ok (.abs16 v, bs) := by
      show (le16 (bytes16 v ++ bs)).map (fun (v, bs) => (MemForm.abs16 v, bs)) = _
      rw [le16_bytes16]; rfl
    rw [this]; rfl
  | based rm d =>
    simp [MemForm.wf] at h
    obtain ⟨⟨h1, h2⟩, h3⟩ := h
    have D := disp32_mod d
    show readModRm a (fieldsByte d.mod reg rm :: (d.bytes ++ bs)) = _
    rw [readModRm_fieldsByte, if_neg D.1, n16 _ _ _ h1]
    unfold readMem32
    rw [if_neg (show ¬ rm = 4 from h2), if_neg (by rw [D.2]; tauto), readDisp32_bytes]; rfl
  | disp32 v =>
    simp [MemForm.wf] at h
    show readModRm a (fieldsByte 0 reg 5 :: (bytes32 v ++ bs)) = _
    rw [readModRm_fieldsByte, if_neg (by decide), n16 _ _ _ h]
    have : readMem32 0 5 (bytes32 v ++ bs) = .ok (.disp32 v, bs) := by
      show (le32 (bytes32 v ++ bs)).map (fun (v, bs) => (MemForm.disp32 v, bs)) = _
      rw [le32_bytes32]; rfl
    rw [this]; rfl
  | sib sc i b d =>
    simp [MemForm.wf] at h
    have D := disp32_mod d
    show readModRm a (fieldsByte d.mod reg 4 :: fieldsByte sc i b :: (d.bytes ++ bs)) = _
    rw [readModRm_fieldsByte, if_neg D.1, n16 _ _ _ h.1]
    rw [readMem32, if_pos rfl]
    rw [readSib_fieldsByte, if_neg (by rw [D.2]; tauto), readDisp32_bytes]; rfl
  | sibNoBase sc i v =>
    simp [MemForm.wf] at h
    show readModRm a (fieldsByte 0 reg 4 :: fieldsByte sc i 5 :: (bytes32 v ++ bs)) = _
    rw [readModRm_fieldsByte, if_neg (by decide), n16 _ _ _ h]
    rw [readMem32, if_pos rfl]
    rw [readSib_fieldsByte, if_pos (by decide), le32_bytes32]; rfl

/-- An r/m operand of the address size is read back from its bytes. -/
theorem readModRm_bytes (a : AddrSize) (reg) (rm : Rm) (bs) (h : rm.wf a = true) : readModRm a (rm.bytes reg ++
    bs) = .ok (reg, rm, bs) := by
  cases rm with
  | reg g =>
    show readModRm a (fieldsByte 3 reg g :: bs) = _
    rw [readModRm_fieldsByte]; rfl
  | mem m => exact readModRm_memForm a reg m bs h

theorem readModRmFields_fieldsByte (mod reg rm bs) : readModRmFields (fieldsByte mod reg rm :: bs) = .ok
    ((mod, reg, rm), bs) := by
  rw [readModRmFields, (fieldsByte_fields _ _ _).1, (fieldsByte_fields _ _ _).2.1, (fieldsByte_fields _ _ _).2.2]

theorem readMem16_eq_ok (mod rm bs m rest reg) (h : readMem16 mod rm bs = .ok (m, rest)) (hm : mod ≠ 3) :
    m.bytes reg ++ rest = fieldsByte mod reg rm :: bs ∧ m.wf .a16 = true := by
  unfold readMem16 at h
  split at h
  all_goals
    obtain ⟨⟨u, r⟩, h1, h2⟩ := except_map_eq_ok.1 h
    cases h2
  · rename_i hh
    obtain ⟨rfl, rfl⟩ := hh
    refine ⟨?_, rfl⟩
    rw [← le16_eq_ok _ _ _ h1]; rfl
  · rename_i hh
    obtain ⟨d1, d2⟩ := readDisp16_eq_ok _ _ _ _ h1 hm
    subst d1
    refine ⟨?_, ?_⟩
    · rw [← d2]; rfl
    · rw [(disp16_mod u).2] at hh
      simp [MemForm.wf]; tauto

theorem readSib_eq_ok (mod bs m rest reg) (a : AddrSize) (ha : a ≠ .a16) (h : readSib mod bs = .ok (m, rest)) (hm :
    mod ≠ 3) : m.bytes reg ++ rest = fieldsByte mod reg 4 :: bs ∧ m.wf a = true := by
  unfold readSib at h
  split at h
  · cases h
  rename_i s bs
  split at h
  all_goals
    obtain ⟨⟨u, r⟩, h1, h2⟩ := except_map_eq_ok.1 h
    cases h2
  · rename_i hh
    obtain ⟨rfl, h5⟩ := hh
    refine ⟨?_, by simp [MemForm.wf, ha]⟩
    rw [← le32_eq_ok _ _ _ h1]
    have := fieldsByte_self s
    rw [h5] at this
    show fieldsByte 0 reg 4 :: fieldsByte _ _ 5 :: _ = _
    rw [this]; rfl
  · rename_i hh
    obtain ⟨d1, d2⟩ := readDisp32_eq_ok _ _ _ _ h1 hm
    subst d1
    refine ⟨?_, ?_⟩
    · rw [← d2]
      show fieldsByte _ reg 4 :: fieldsByte _ _ _ :: _ = _
      rw [fieldsByte_self]; rfl
    · rw [(disp32_mod u).2] at hh
      simp [MemForm.wf, ha]; tauto

theorem readMem32_eq_ok (mod rm bs m rest reg) (a : AddrSize) (ha : a ≠ .a16) (h :
    readMem32 mod rm bs = .ok (m, rest)) (hm : mod ≠ 3) : m.bytes reg ++ rest = fieldsByte mod reg rm :: bs ∧
    m.wf a = true := by
  unfold readMem32 at h
  split at h
  · subst_vars; exact readSib_eq_ok _ _ _ _ _ _ ha h hm
  split at h
  all_goals
    obtain ⟨⟨u, r⟩, h1, h2⟩ := except_map_eq_ok.1 h
    cases h2
  · rename_i hh
    obtain ⟨rfl, rfl⟩ := hh
    refine ⟨?_, by simp [MemForm.wf, ha]⟩
    rw [← le32_eq_ok _ _ _ h1]; rfl
  · rename_i h4 hh
    obtain ⟨d1, d2⟩ := readDisp32_eq_ok _ _ _ _ h1 hm
    subst d1
    refine ⟨?_, ?_⟩
    · rw [← d2]; rfl
    · rw [(disp32_mod u).2] at hh
      have h4 : ¬ rm = 4#3 := h4
      simp [MemForm.wf, ha, h4]; tauto

/-- What an r/m operand was read from. -/
theorem readModRm_eq_ok (a : AddrSize) (bs reg rm rest) (h : readModRm a bs = .ok (reg, rm, rest)) : rm.bytes reg ++
    rest = bs ∧ rm.wf a = true := by
  unfold readModRm at h
  split at h
  · cases h
  rename_i m bs
  have F := fieldsByte_self m
  split at h
  · rename_i h3
    cases h
    rw [h3] at F
    refine ⟨?_, rfl⟩
    show fieldsByte 3 _ _ :: _ = _
    rw [F]; rfl
  · rename_i hm
    obtain ⟨⟨u, r⟩, h1, h2⟩ := except_map_eq_ok.1 h
    cases h2
    show u.bytes _ ++ _ = _ ∧ u.wf a = true
    have : u.bytes (m.extractLsb' 3 3) ++ rest = fieldsByte (m.extractLsb' 6 2) (m.extractLsb' 3 3)
      (m.extractLsb' 0 3) :: bs ∧ u.wf a = true := by
      cases a
      · exact readMem16_eq_ok _ _ _ _ _ _ h1 hm
      · exact readMem32_eq_ok _ _ _ _ _ _ _ (by decide) h1 hm
      · exact readMem32_eq_ok _ _ _ _ _ _ _ (by decide) h1 hm
    rwa [F] at this

theorem readModRmFields_eq_ok (bs mod reg rm rest) (h : readModRmFields bs = .ok ((mod, reg, rm), rest)) :
    fieldsByte mod reg rm :: rest = bs := by
  unfold readModRmFields at h
  split at h
  · cases h
  · cases h; rw [fieldsByte_self]

/-! ## Prefixes -/

/-- A byte that is no prefix byte. -/
def noPrefix (long : Bool) (b : Byte) : Prop := b ≠ 0xF2 ∧ b ≠ 0xF3 ∧ legacyPrefix b = none ∧
    (if long then rexOf b else none) = none

theorem noPrefix_of_long {b : Byte} (h : noPrefix true b) (l : Bool) : noPrefix l b := by
  cases l
  · exact ⟨h.1, h.2.1, h.2.2.1, rfl⟩
  · exact h

theorem scanPrefixes_noPrefix (long b bs) (h : noPrefix long b) : scanPrefixes long (b :: bs) = .ok
    ({pre := [], rex := none}, b :: bs) := by
  obtain ⟨h1, h2, h3, h4⟩ := h
  unfold scanPrefixes
  rw [if_neg (by rintro (h | h) <;> contradiction), h3]
  simp only [h4]

theorem rexByte_reads (r : Rex) : r.byte ≠ 0xF2 ∧ r.byte ≠ 0xF3 ∧ legacyPrefix r.byte = none ∧
    rexOf r.byte = some r := by
  obtain ⟨w, r, x, b⟩ := r
  revert w r x b; decide

theorem legacyByte_reads (q : Prefix) (h : q.isLegacy = true) : q.byte ≠ 0xF2 ∧ q.byte ≠ 0xF3 ∧
    legacyPrefix q.byte = some q := by
  cases q with
  | segOverride s => cases s <;> decide
  | deadRex r => cases h
  | _ => decide

theorem scanPrefixes_legacy (long q bs) (h : q.isLegacy = true) : scanPrefixes long
    (q.byte :: bs) = (scanPrefixes long bs).map fun (p, rest) => (p.cons q, rest) := by
  obtain ⟨h1, h2, h3⟩ := legacyByte_reads q h
  rw [scanPrefixes, if_neg (by rintro (h | h) <;> contradiction), h3]

theorem scanPrefixes_rex (r bs) : scanPrefixes true (Rex.byte r :: bs) = (scanPrefixes true bs).map fun (p, rest) =>
    (p.consRex r, rest) := by
  obtain ⟨h1, h2, h3, h4⟩ := rexByte_reads r
  rw [scanPrefixes, if_neg (by rintro (h | h) <;> contradiction), h3]
  simp [h4]

/-- Prefixes are read back from their bytes, up to a byte that is no prefix. -/
theorem scanPrefixes_bytes (long b bs) (hb : noPrefix long b) (pre : List Prefix) (rex : Option Rex) (hd :
    deadRexFollowed pre rex = true)
   (hl : long = true ∨ (rex.isNone && pre.all Prefix.isLegacy) = true) :
   scanPrefixes long (Prefixes.bytes ⟨pre, rex⟩ ++ b :: bs) = .ok (⟨pre, rex⟩, b :: bs) := by
  induction pre with
  | nil =>
    cases rex with
    | none => exact scanPrefixes_noPrefix _ _ _ hb
    | some r =>
      rcases hl with rfl | h
      · show scanPrefixes true (r.byte :: b :: bs) = _
        rw [scanPrefixes_rex, scanPrefixes_noPrefix _ _ _ hb]; rfl
      · simp at h
  | cons q pre ih =>
    have hd' : deadRexFollowed pre rex = true := by
      cases pre with
      | nil => rfl
      | cons q2 rest => exact hd
    have hl' : long = true ∨ (rex.isNone && pre.all Prefix.isLegacy) = true := by
      rcases hl with h | h
      · exact .inl h
      · right; simp only [List.all_cons, Bool.and_eq_true] at h ⊢; exact ⟨h.1, h.2.2⟩
    have ih := ih hd' hl'
    show scanPrefixes long (q.byte :: (Prefixes.bytes ⟨pre, rex⟩ ++ b :: bs)) = _
    by_cases hq : q.isLegacy = true
    · rw [scanPrefixes_legacy _ _ _ hq, ih]; rfl
    · have hlong : long = true := by
        rcases hl with h | h
        · exact h
        · simp [hq] at h
      subst hlong
      cases q with
      | deadRex r =>
        show scanPrefixes true (r.byte :: _) = _
        rw [scanPrefixes_rex, ih]
        have : ¬ (pre = [] ∧ rex = none) := by
          rintro ⟨rfl, rfl⟩; simp [deadRexFollowed, Prefix.isLegacy] at hd
        simp [Except.map, Prefixes.consRex, this, Prefixes.cons]
      | _ => exact absurd rfl hq

/-- Prefixes that bytes can hold are read back, and none of their combinations is refused. -/
theorem scanPrefixes_wf (c : Ctx) (p : Prefixes) (b bs) (hb : noPrefix (c.mode = .long64) b) (h : p.wf c = true) :
   scanPrefixes (c.mode = .long64) (p.bytes ++ b :: bs) = .ok (p, b :: bs) ∧ checkPrefixes p = .ok () := by
  unfold Prefixes.wf at h
  simp only [Bool.and_eq_true] at h
  obtain ⟨⟨⟨⟨h1, h2⟩, h3⟩, h4⟩, h5⟩ := h
  constructor
  · refine scanPrefixes_bytes _ b bs hb p.pre p.rex h4 ?_
    simpa using h5
  · simp only [decide_eq_true_eq] at h1 h2 h3
    unfold checkPrefixes
    rw [if_neg (by omega), if_neg (by omega), if_neg (by omega)]

theorem legacyPrefix_eq_some : ∀ b : Byte, ∀ q, legacyPrefix b = some q → q.byte = b ∧ q.isLegacy = true := by
  intro b q h
  unfold legacyPrefix at h
  repeat' split at h
  all_goals cases h
  all_goals (rename_i hb; subst hb; exact ⟨rfl, rfl⟩)

theorem rexOf_eq_some : ∀ b : Byte, ∀ r, rexOf b = some r → r.byte = b := by
  have : ∀ b : Byte, b.extractLsb' 4 4 = 4 →
      Rex.byte { w := b.getLsbD 3, r := b.getLsbD 2, x := b.getLsbD 1, b := b.getLsbD 0 } = b := by
    decide +revert
  intro b r h
  unfold rexOf at h
  split at h
  · cases h; exact this b ‹_›
  · cases h

/-- What prefixes were read from. -/
theorem scanPrefixes_eq_ok (long : Bool) (bs : List Byte) (p : Prefixes) (rest) (h :
    scanPrefixes long bs = .ok (p, rest)) :
   p.bytes ++ rest = bs ∧ deadRexFollowed p.pre p.rex = true ∧ (long = true ∨
     (p.rex.isNone && p.pre.all Prefix.isLegacy) = true) := by
  induction bs generalizing p rest with
  | nil => cases h
  | cons b bs ih =>
    unfold scanPrefixes at h
    split at h
    · cases h
    split at h
    · rename_i q hq
      obtain ⟨hb, hleg⟩ := legacyPrefix_eq_some _ _ hq
      obtain ⟨⟨p', rest'⟩, h1, h2⟩ := except_map_eq_ok.1 h
      cases h2
      obtain ⟨e1, e2, e3⟩ := ih _ _ h1
      refine ⟨?_, ?_, ?_⟩
      · rw [← e1, ← hb]; rfl
      · obtain ⟨pre, rex⟩ := p'
        cases pre with
        | nil => simp [Prefixes.cons, deadRexFollowed, hleg]
        | cons q2 pre => exact e2
      · rcases e3 with e3 | e3
        · exact .inl e3
        · right; simp only [Prefixes.cons, List.all_cons, Bool.and_eq_true] at e3 ⊢; exact ⟨e3.1, hleg, e3.2⟩
    · split at h
      · rename_i r hr
        cases long
        · cases hr
        have hb := rexOf_eq_some _ _ hr
        obtain ⟨⟨p', rest'⟩, h1, h2⟩ := except_map_eq_ok.1 h
        cases h2
        obtain ⟨e1, e2, e3⟩ := ih _ _ h1
        unfold Prefixes.consRex
        refine ⟨?_, ?_, .inl rfl⟩
        · rw [← e1, ← hb]
          split
          · rename_i hh
            obtain ⟨pre, rex⟩ := p'
            obtain ⟨rfl, rfl⟩ := hh
            rfl
          · rfl
        · split
          · rfl
          · rename_i hh
            obtain ⟨pre, rex⟩ := p'
            cases pre with
            | nil =>
              cases rex with
              | none => exact absurd ⟨rfl, rfl⟩ hh
              | some _ => simp [Prefixes.cons, deadRexFollowed]
            | cons q2 pre => exact e2
      · cases h
        exact ⟨rfl, rfl, .inr rfl⟩

theorem checkPrefixes_eq_ok (p : Prefixes) (u) (h : checkPrefixes p = .ok u) : p.pre.count .opSize ≤ 1 ∧
    p.pre.count .addrSize ≤ 1 ∧ p.pre.countP Prefix.isLegacy ≤ 4 := by
  unfold checkPrefixes at h
  repeat' split at h
  all_goals cases h
  omega

/-- Prefixes that are read and not refused are prefixes that bytes can hold. -/
theorem prefixes_wf_of_read (c : Ctx) (bs p rest u) (h : scanPrefixes (c.mode = .long64) bs = .ok (p, rest)) (h2 :
    checkPrefixes p = .ok u) : p.wf c = true := by
  obtain ⟨_, a, b⟩ := scanPrefixes_eq_ok _ _ _ _ h
  obtain ⟨d, e, f⟩ := checkPrefixes_eq_ok _ _ h2
  unfold Prefixes.wf
  rcases b with b | b
  · simp_all
  · simp_all

end Sys2Proof
end

