-- ==== Sys2Proof/Laws/PerInstr.lean ====
section
/-! SUPPORT. The family Length: every instruction is its prefixes and at least two bytes more (30_encoding.md R100, R133). -/

namespace Sys2Proof.Laws.Length

/-- An instruction is its prefix bytes, an opcode and at least one byte more. -/
def Statement (i : Instr) : Prop := i.prefixes.bytes.length + 2 ≤ i.size

theorem memForm_pos (reg : BitVec 3) (m : MemForm) : 1 ≤ (m.bytes reg).length := by
  cases m <;> simp [MemForm.bytes]

theorem rm_pos (reg : BitVec 3) (rm : Rm) : 1 ≤ (rm.bytes reg).length := by
  cases rm with
  | reg r => simp [Rm.bytes]
  | mem m => exact memForm_pos reg m

theorem moffs_pos (off : Moffs) : 1 ≤ off.bytes.length := by
  cases off <;> simp [Moffs.bytes, bytes16, bytes32, bytes64]

theorem append_pos (a b : List Byte) (h : 1 ≤ a.length) : 1 ≤ (a ++ b).length := by
  rw [List.length_append]; omega

theorem behind (p b : List Byte) (h : 2 ≤ b.length) : p.length + 2 ≤ (p ++ b).length := by
  rw [List.length_append]; omega

theorem movRm8R8 (p : Prefixes) (reg : BitVec 3) (rm : Rm) : Statement (.movRm8R8 p reg rm) :=
  behind _ _ (Nat.succ_le_succ (rm_pos reg rm))

theorem movRm8R8Rex (p : Prefixes) (reg : BitVec 3) (rm : Rm) : Statement (.movRm8R8Rex p reg rm) :=
  behind _ _ (Nat.succ_le_succ (rm_pos reg rm))

theorem movRm16R16 (p : Prefixes) (reg : BitVec 3) (rm : Rm) : Statement (.movRm16R16 p reg rm) :=
  behind _ _ (Nat.succ_le_succ (rm_pos reg rm))

theorem movRm32R32 (p : Prefixes) (reg : BitVec 3) (rm : Rm) : Statement (.movRm32R32 p reg rm) :=
  behind _ _ (Nat.succ_le_succ (rm_pos reg rm))

theorem movRm64R64 (p : Prefixes) (reg : BitVec 3) (rm : Rm) : Statement (.movRm64R64 p reg rm) :=
  behind _ _ (Nat.succ_le_succ (rm_pos reg rm))

theorem movR8Rm8 (p : Prefixes) (reg : BitVec 3) (rm : Rm) : Statement (.movR8Rm8 p reg rm) :=
  behind _ _ (Nat.succ_le_succ (rm_pos reg rm))

theorem movR8Rm8Rex (p : Prefixes) (reg : BitVec 3) (rm : Rm) : Statement (.movR8Rm8Rex p reg rm) :=
  behind _ _ (Nat.succ_le_succ (rm_pos reg rm))

theorem movR16Rm16 (p : Prefixes) (reg : BitVec 3) (rm : Rm) : Statement (.movR16Rm16 p reg rm) :=
  behind _ _ (Nat.succ_le_succ (rm_pos reg rm))

theorem movR32Rm32 (p : Prefixes) (reg : BitVec 3) (rm : Rm) : Statement (.movR32Rm32 p reg rm) :=
  behind _ _ (Nat.succ_le_succ (rm_pos reg rm))

theorem movR64Rm64 (p : Prefixes) (reg : BitVec 3) (rm : Rm) : Statement (.movR64Rm64 p reg rm) :=
  behind _ _ (Nat.succ_le_succ (rm_pos reg rm))

theorem movRm16Sreg (p : Prefixes) (sreg : BitVec 3) (rm : Rm) : Statement (.movRm16Sreg p sreg rm) :=
  behind _ _ (Nat.succ_le_succ (rm_pos sreg rm))

theorem movRm64Sreg (p : Prefixes) (sreg : BitVec 3) (rm : Rm) : Statement (.movRm64Sreg p sreg rm) :=
  behind _ _ (Nat.succ_le_succ (rm_pos sreg rm))

theorem movSregRm16 (p : Prefixes) (sreg : BitVec 3) (rm : Rm) : Statement (.movSregRm16 p sreg rm) :=
  behind _ _ (Nat.succ_le_succ (rm_pos sreg rm))

theorem movSregRm64 (p : Prefixes) (sreg : BitVec 3) (rm : Rm) : Statement (.movSregRm64 p sreg rm) :=
  behind _ _ (Nat.succ_le_succ (rm_pos sreg rm))

theorem movAlMoffs8 (p : Prefixes) (off : Moffs) : Statement (.movAlMoffs8 p off) :=
  behind _ _ (Nat.succ_le_succ (moffs_pos off))

theorem movAlMoffs8RexW (p : Prefixes) (off : Moffs) : Statement (.movAlMoffs8RexW p off) :=
  behind _ _ (Nat.succ_le_succ (moffs_pos off))

theorem movAxMoffs16 (p : Prefixes) (off : Moffs) : Statement (.movAxMoffs16 p off) :=
  behind _ _ (Nat.succ_le_succ (moffs_pos off))

theorem movEaxMoffs32 (p : Prefixes) (off : Moffs) : Statement (.movEaxMoffs32 p off) :=
  behind _ _ (Nat.succ_le_succ (moffs_pos off))

theorem movRaxMoffs64 (p : Prefixes) (off : Moffs) : Statement (.movRaxMoffs64 p off) :=
  behind _ _ (Nat.succ_le_succ (moffs_pos off))

theorem movMoffs8Al (p : Prefixes) (off : Moffs) : Statement (.movMoffs8Al p off) :=
  behind _ _ (Nat.succ_le_succ (moffs_pos off))

theorem movMoffs8AlRexW (p : Prefixes) (off : Moffs) : Statement (.movMoffs8AlRexW p off) :=
  behind _ _ (Nat.succ_le_succ (moffs_pos off))

theorem movMoffs16Ax (p : Prefixes) (off : Moffs) : Statement (.movMoffs16Ax p off) :=
  behind _ _ (Nat.succ_le_succ (moffs_pos off))

theorem movMoffs32Eax (p : Prefixes) (off : Moffs) : Statement (.movMoffs32Eax p off) :=
  behind _ _ (Nat.succ_le_succ (moffs_pos off))

theorem movMoffs64Rax (p : Prefixes) (off : Moffs) : Statement (.movMoffs64Rax p off) :=
  behind _ _ (Nat.succ_le_succ (moffs_pos off))

theorem movR8Imm8 (p : Prefixes) (r : BitVec 3) (imm : BitVec 8) : Statement (.movR8Imm8 p r imm) :=
  behind _ _ (Nat.le_of_ble_eq_true rfl)

theorem movR8Imm8Rex (p : Prefixes) (r : BitVec 3) (imm : BitVec 8) : Statement (.movR8Imm8Rex p r imm) :=
  behind _ _ (Nat.le_of_ble_eq_true rfl)

theorem movR16Imm16 (p : Prefixes) (r : BitVec 3) (imm : BitVec 16) : Statement (.movR16Imm16 p r imm) :=
  behind _ _ (Nat.le_of_ble_eq_true rfl)

theorem movR32Imm32 (p : Prefixes) (r : BitVec 3) (imm : BitVec 32) : Statement (.movR32Imm32 p r imm) :=
  behind _ _ (Nat.le_of_ble_eq_true rfl)

theorem movR64Imm64 (p : Prefixes) (r : BitVec 3) (imm : BitVec 64) : Statement (.movR64Imm64 p r imm) :=
  behind _ _ (Nat.le_of_ble_eq_true rfl)

theorem movRm8Imm8 (p : Prefixes) (rm : Rm) (imm : BitVec 8) : Statement (.movRm8Imm8 p rm imm) :=
  behind _ _ (Nat.succ_le_succ (append_pos _ _ (rm_pos 0 rm)))

theorem movRm8Imm8Rex (p : Prefixes) (rm : Rm) (imm : BitVec 8) : Statement (.movRm8Imm8Rex p rm imm) :=
  behind _ _ (Nat.succ_le_succ (append_pos _ _ (rm_pos 0 rm)))

theorem movRm16Imm16 (p : Prefixes) (rm : Rm) (imm : BitVec 16) : Statement (.movRm16Imm16 p rm imm) :=
  behind _ _ (Nat.succ_le_succ (append_pos _ _ (rm_pos 0 rm)))

theorem movRm32Imm32 (p : Prefixes) (rm : Rm) (imm : BitVec 32) : Statement (.movRm32Imm32 p rm imm) :=
  behind _ _ (Nat.succ_le_succ (append_pos _ _ (rm_pos 0 rm)))

theorem movRm64Imm32 (p : Prefixes) (rm : Rm) (imm : BitVec 32) : Statement (.movRm64Imm32 p rm imm) :=
  behind _ _ (Nat.succ_le_succ (append_pos _ _ (rm_pos 0 rm)))

theorem movR32Cr (p : Prefixes) (mod : BitVec 2) (cr : BitVec 3) (rm : BitVec 3) : Statement (.movR32Cr p mod cr rm) :=
  behind _ _ (Nat.le_of_ble_eq_true rfl)

theorem movR64Cr (p : Prefixes) (mod : BitVec 2) (cr : BitVec 3) (rm : BitVec 3) : Statement (.movR64Cr p mod cr rm) :=
  behind _ _ (Nat.le_of_ble_eq_true rfl)

theorem movR64Cr8 (p : Prefixes) (mod : BitVec 2) (rm : BitVec 3) : Statement (.movR64Cr8 p mod rm) :=
  behind _ _ (Nat.le_of_ble_eq_true rfl)

theorem movCrR32 (p : Prefixes) (mod : BitVec 2) (cr : BitVec 3) (rm : BitVec 3) : Statement (.movCrR32 p mod cr rm) :=
  behind _ _ (Nat.le_of_ble_eq_true rfl)

theorem movCrR64 (p : Prefixes) (mod : BitVec 2) (cr : BitVec 3) (rm : BitVec 3) : Statement (.movCrR64 p mod cr rm) :=
  behind _ _ (Nat.le_of_ble_eq_true rfl)

theorem movCr8R64 (p : Prefixes) (mod : BitVec 2) (rm : BitVec 3) : Statement (.movCr8R64 p mod rm) :=
  behind _ _ (Nat.le_of_ble_eq_true rfl)

theorem movR32Dr (p : Prefixes) (mod : BitVec 2) (dr : BitVec 3) (rm : BitVec 3) : Statement (.movR32Dr p mod dr rm) :=
  behind _ _ (Nat.le_of_ble_eq_true rfl)

theorem movR64Dr (p : Prefixes) (mod : BitVec 2) (dr : BitVec 3) (rm : BitVec 3) : Statement (.movR64Dr p mod dr rm) :=
  behind _ _ (Nat.le_of_ble_eq_true rfl)

theorem movDrR32 (p : Prefixes) (mod : BitVec 2) (dr : BitVec 3) (rm : BitVec 3) : Statement (.movDrR32 p mod dr rm) :=
  behind _ _ (Nat.le_of_ble_eq_true rfl)

theorem movDrR64 (p : Prefixes) (mod : BitVec 2) (dr : BitVec 3) (rm : BitVec 3) : Statement (.movDrR64 p mod dr rm) :=
  behind _ _ (Nat.le_of_ble_eq_true rfl)

end Sys2Proof.Laws.Length
end

