-- ==== Sys2Proof/Tests/Slice0.lean ====
section
/-! SUPPORT. Tests. Each expected result is the spec's: the bytes and values of 95_test_vectors.md (named V40-1 and so on in
the comments) or a hand reading of the rule named. The last part shows, for every statement with hypotheses, states and
operands that meet them, clause by clause. -/

namespace Sys2Proof.Tests

open Sys2Proof Sys2Proof.Machine

/-! ## Helpers: contexts and states (95_test_vectors.md section 0) -/

def ctx16 : Ctx := { mode := .real, csD := .bits16 }
def ctx32 : Ctx := { mode := .prot, csD := .bits32 }
def ctx64 : Ctx := { mode := .long64, csD := .bits32 }

def rex (w r x b : Bool) : Rex := { w := w, r := r, x := x, b := b }
def bare : Prefixes := { pre := [], rex := none }
def pre (l : List Prefix) : Prefixes := { pre := l, rex := none }
def withRex (w r x b : Bool) : Prefixes := { pre := [], rex := some (rex w r x b) }
def rexW : Prefixes := withRex true false false false

def dataSeg (sel : BitVec 16) (base : Word) (lim : BitVec 32) (dpl : BitVec 2) : SegReg :=
  { sel := sel
    hidden :=
      { base := base, limit := .up lim, kind := .data, writable := true, readable := true, conforming := false,
        dpl := dpl, present := true } }

def codeSeg (sel : BitVec 16) (lim : BitVec 32) (dpl : BitVec 2) : SegReg :=
  { sel := sel
    hidden :=
      { base := 0, limit := .up lim, kind := .code, writable := false, readable := true, conforming := false,
        dpl := dpl, present := true } }

def allSegs (cs ss other : SegReg) : SegFile := { es := other, cs := cs, ss := ss, ds := other, fs := other, gs := other }

/-- The oracles of the contexts: the descriptors of 95_test_vectors.md section 3, paging the identity. -/
def plainPar : Params :=
  { Params.atReset with
    elsewhere := .plain
    descTable :=
      [(0x13, .desc (dataSeg 0 0 0xFFFFFFFF 0).hidden), (0x23, .desc (codeSeg 0 0xFFFFFFFF 3).hidden),
       (0x30, .desc (dataSeg 0 0x100000 0xFFFF 3).hidden), (0x33, .desc (dataSeg 0 0x100000 0xFFFF 3).hidden),
       (0x43, .desc { (dataSeg 0 0 0xFFFF 3).hidden with present := false }),
       (0x4B, .desc { (codeSeg 0 0xFFFFFFFF 3).hidden with readable := false }),
       (0x63, .nonCanonicalTable)] }

/-- C16. -/
def real16 : State :=
  { State.reset with
    pc := 0xE000
    cr0 := 0x10
    par := plainPar
    seg := allSegs (codeSeg 0 0xFFFF 0) (dataSeg 0x3000 0x30000 0xFFFF 0) (dataSeg 0x1000 0x10000 0xFFFF 0) }

/-- CV86. -/
def v86 : State := { real16 with mode := .v86, cpl := 3, cr0 := 0x11 }

/-- C32. -/
def user32 : State :=
  { State.reset with
    pc := 0x900000
    cr0 := 0x11
    mode := .prot
    csD := .bits32
    cpl := 3
    par := plainPar
    seg := allSegs (codeSeg 0x23 0xFFFFFFFF 3) (dataSeg 0x33 0 0xFFFFFFFF 3) (dataSeg 0x2B 0 0xFFFFFFFF 3) }

/-- C32K. -/
def kernel32 : State :=
  { user32 with
    cpl := 0
    seg := allSegs (codeSeg 0x8 0xFFFFFFFF 0) (dataSeg 0x18 0 0xFFFFFFFF 0) (dataSeg 0x10 0 0xFFFFFFFF 0) }

/-- C64. -/
def user64 : State :=
  { user32 with
    mode := .long64
    cr0 := 0x80000011
    cr4 := 0x20
    seg := { user32.seg with fs := dataSeg 0 0x7000 0 3, gs := dataSeg 0 0 0 3 } }

/-- C64K. -/
def kernel64 : State := { user64 with cpl := 0, seg := { user64.seg with cs := codeSeg 0x8 0xFFFFFFFF 0 } }

/-- A state of compatibility mode at level 0. -/
def compat32 : State := { kernel32 with mode := .compat, cr0 := 0x80000011, cr4 := 0x20 }

def setRegs (s : State) (l : List (BitVec 4 × Word)) : State := l.foldl (fun s q => s.setReg q.1 q.2) s
def setMem (s : State) (l : List (Nat × Byte)) : State := { s with mem := s.mem.writeAll l }
def withDs (s : State) (r : SegReg) : State := { s with seg := { s.seg with ds := r } }
def withSs (s : State) (r : SegReg) : State := { s with seg := { s.seg with ss := r } }
def checkAlign (s : State) : State := { s with cr0 := s.cr0 ||| 0x40000, flags := { s.flags with ac := true } }
def readOnly : SegReg := { sel := 0x2B, hidden := { (dataSeg 0 0 0xFFFFFFFF 3).hidden with writable := false } }

/-- The state with the bytes as its program text, at its pc. -/
def textAt (s : State) (bytes : List Byte) : State := { s with text := { start := s.pc, bytes := bytes } }

/-- One step on a text of these bytes. -/
def run (s : State) (bytes : List Byte) : Outcome := step (textAt s bytes)

def next (o : Outcome) (f : State → Bool) : Bool :=
  match o with
  | .next t => f t
  | _ => false

def except (o : Outcome) (e : Exception) : Bool :=
  match o with
  | .fault (.exception e' _) => decide (e = e')
  | _ => false

def refused (o : Outcome) (q : Refusal) : Bool :=
  match o with
  | .refused q' => decide (q = q')
  | _ => false

def interrupted (o : Outcome) : Bool :=
  match o with
  | .fault (.interrupted _) => true
  | _ => false

/-- The next state of an outcome, the reset state if it has none. -/
def after (o : Outcome) : State :=
  match o with
  | .next t => t
  | _ => State.reset

/-- The bytes decode to the instruction and nothing is left; it is well formed; and it encodes to the bytes. -/
def reads (c : Ctx) (bytes : List Byte) (i : Instr) : Bool :=
  decide (decode c bytes = .ok (i, [])) && i.wf c && decide (encode i = bytes)

/-! ## WellFormed: one ill-formed term for each check -/

theorem test_wf_refuses_repeated_opSize : (Instr.movR8Imm8 (pre [.opSize, .opSize]) 0 0).wf ctx32 = false := by decide
theorem test_wf_refuses_repeated_addrSize : (Instr.movR8Imm8 (pre [.addrSize, .addrSize]) 0 0).wf ctx32 = false := by decide
theorem test_wf_refuses_five_legacy : (Instr.movR8Imm8 (pre [.lock, .lock, .lock, .lock, .lock]) 0 0).wf ctx32 = false := by decide
theorem test_wf_takes_four_legacy : (Instr.movR8Imm8 (pre [.lock, .lock, .lock, .lock]) 0 0).wf ctx32 = true := by decide
theorem test_wf_refuses_dead_rex_last :
    (Instr.movR8Imm8 (pre [.deadRex (rex true false false false)]) 0 0).wf ctx64 = false := by decide
theorem test_wf_takes_dead_rex_before_prefix :
    (Instr.movR8Imm8 (pre [.deadRex (rex true false false false), .opSize]) 0 0).wf ctx64 = true := by decide
theorem test_wf_refuses_dead_rex_outside_long64 :
    (Instr.movR8Imm8 (pre [.deadRex (rex true false false false), .opSize]) 0 0).wf ctx32 = false := by decide
theorem test_wf_refuses_rex_outside_long64 : (Instr.movR8Imm8Rex rexW 0 0).wf ctx32 = false := by decide
theorem test_wf_refuses_size_16 :
    (Instr.movR64Imm64 { pre := [.deadRex (rex true false false false), .deadRex (rex true false false false),
      .lock, .lock, .lock, .lock], rex := some (rex true false false false) } 0 0).wf ctx64 = false := by decide
theorem test_wf_refuses_regs16_under_a32 : (Instr.movRm8R8 bare 0 (.mem (.regs16 0 .none))).wf ctx32 = false := by decide
theorem test_wf_refuses_bp_without_disp : (Instr.movRm8R8 bare 0 (.mem (.regs16 6 .none))).wf ctx16 = false := by decide
theorem test_wf_refuses_abs16_under_a32 : (Instr.movRm8R8 bare 0 (.mem (.abs16 0))).wf ctx32 = false := by decide
theorem test_wf_refuses_based_under_a16 : (Instr.movRm8R8 bare 0 (.mem (.based 0 .none))).wf ctx16 = false := by decide
theorem test_wf_refuses_based_esp : (Instr.movRm8R8 bare 0 (.mem (.based 4 .none))).wf ctx32 = false := by decide
theorem test_wf_refuses_ebp_without_disp : (Instr.movRm8R8 bare 0 (.mem (.based 5 .none))).wf ctx32 = false := by decide
theorem test_wf_refuses_disp32_under_a16 : (Instr.movRm8R8 bare 0 (.mem (.disp32 0))).wf ctx16 = false := by decide
theorem test_wf_refuses_sib_under_a16 : (Instr.movRm8R8 bare 0 (.mem (.sib 0 0 0 .none))).wf ctx16 = false := by decide
theorem test_wf_refuses_sib_ebp_without_disp : (Instr.movRm8R8 bare 0 (.mem (.sib 0 0 5 .none))).wf ctx32 = false := by decide
theorem test_wf_refuses_sibNoBase_under_a16 : (Instr.movRm8R8 bare 0 (.mem (.sibNoBase 0 0 0))).wf ctx16 = false := by decide
theorem test_wf_refuses_o16_under_a32 : (Instr.movAlMoffs8 bare (.o16 0)).wf ctx32 = false := by decide
theorem test_wf_refuses_o32_under_a64 : (Instr.movAlMoffs8 bare (.o32 0)).wf ctx64 = false := by decide
theorem test_wf_refuses_o64_under_a32 : (Instr.movAlMoffs8 bare (.o64 0)).wf ctx32 = false := by decide
theorem test_wf_refuses_plain_row_with_rex : (Instr.movRm8R8 rexW 0 (.reg 0)).wf ctx64 = false := by decide
theorem test_wf_refuses_rex_row_without_rex : (Instr.movR8Rm8Rex bare 0 (.reg 0)).wf ctx64 = false := by decide
theorem test_wf_refuses_wrong_size_mr : (Instr.movRm16R16 bare 0 (.reg 0)).wf ctx32 = false := by decide
theorem test_wf_refuses_wrong_size_oi : (Instr.movR64Imm64 bare 0 0).wf ctx64 = false := by decide
theorem test_wf_refuses_wrong_size_mi : (Instr.movRm32Imm32 (pre [.opSize]) (.reg 0) 0).wf ctx32 = false := by decide
theorem test_wf_refuses_wrong_size_moffs : (Instr.movRaxMoffs64 bare (.o64 0)).wf ctx64 = false := by decide
theorem test_wf_refuses_sreg_row_with_rexW : (Instr.movRm16Sreg rexW 0 (.reg 0)).wf ctx64 = false := by decide
theorem test_wf_refuses_sreg64_row_without_rexW : (Instr.movSregRm64 bare 0 (.reg 0)).wf ctx64 = false := by decide
theorem test_wf_refuses_moffs_rexW_row_without_it : (Instr.movMoffs8AlRexW bare (.o64 0)).wf ctx64 = false := by decide
theorem test_wf_refuses_cr_r32_in_long64 : (Instr.movR32Cr bare 3 0 0).wf ctx64 = false := by decide
theorem test_wf_refuses_cr_r64_outside_long64 : (Instr.movCrR64 bare 3 0 0).wf ctx32 = false := by decide
theorem test_wf_refuses_cr8_as_cr0 : (Instr.movR64Cr (withRex false true false false) 3 0 0).wf ctx64 = false := by decide
theorem test_wf_refuses_cr8_without_rexR : (Instr.movCr8R64 bare 3 0).wf ctx64 = false := by decide
theorem test_wf_refuses_dr_r32_in_long64 : (Instr.movDrR32 bare 3 0 0).wf ctx64 = false := by decide
theorem test_wf_refuses_dr_r64_outside_long64 : (Instr.movR64Dr bare 3 0 0).wf ctx32 = false := by decide

/-! ## Decoding: every constructor, from bytes written out from the spec -/

theorem test_decode_movRm8R8 : reads ctx32 [0x88, 0xDC] (.movRm8R8 bare 3 (.reg 4)) = true := by decide
theorem test_decode_movRm8R8Rex :
    reads ctx64 [0x44, 0x88, 0x0F] (.movRm8R8Rex (withRex false true false false) 1 (.mem (.based 7 .none))) = true := by decide
theorem test_decode_movRm16R16 : reads ctx32 [0x66, 0x89, 0xD8] (.movRm16R16 (pre [.opSize]) 3 (.reg 0)) = true := by decide
theorem test_decode_movRm32R32 : reads ctx32 [0x89, 0x07] (.movRm32R32 bare 0 (.mem (.based 7 .none))) = true := by decide
theorem test_decode_movRm64R64 :
    reads ctx64 [0x4C, 0x89, 0xC0] (.movRm64R64 (withRex true true false false) 0 (.reg 0)) = true := by decide
theorem test_decode_movR8Rm8 : reads ctx32 [0x8A, 0xE3] (.movR8Rm8 bare 4 (.reg 3)) = true := by decide
theorem test_decode_movR8Rm8Rex :
    reads ctx64 [0x41, 0x8A, 0x00] (.movR8Rm8Rex (withRex false false false true) 0 (.mem (.based 0 .none))) = true := by decide
theorem test_decode_movR16Rm16 :
    reads ctx16 [0x8B, 0x46, 0xFE] (.movR16Rm16 bare 0 (.mem (.regs16 6 (.d8 0xFE)))) = true := by decide
theorem test_decode_movR32Rm32 :
    reads ctx32 [0x8B, 0x44, 0x8B, 0x10] (.movR32Rm32 bare 0 (.mem (.sib 2 1 3 (.d8 0x10)))) = true := by decide
theorem test_decode_movR64Rm64 :
    reads ctx64 [0x48, 0x8B, 0x05, 0x10, 0, 0, 0] (.movR64Rm64 rexW 0 (.mem (.disp32 0x10))) = true := by decide
theorem test_decode_movRm16Sreg : reads ctx32 [0x8C, 0x1B] (.movRm16Sreg bare 3 (.mem (.based 3 .none))) = true := by decide
theorem test_decode_movRm64Sreg : reads ctx64 [0x48, 0x8C, 0xD8] (.movRm64Sreg rexW 3 (.reg 0)) = true := by decide
theorem test_decode_movSregRm16 : reads ctx32 [0x66, 0x8E, 0xD8] (.movSregRm16 (pre [.opSize]) 3 (.reg 0)) = true := by decide
theorem test_decode_movSregRm64 : reads ctx64 [0x48, 0x8E, 0xD8] (.movSregRm64 rexW 3 (.reg 0)) = true := by decide
theorem test_decode_movAlMoffs8 :
    reads ctx32 [0x67, 0xA0, 0x34, 0x12] (.movAlMoffs8 (pre [.addrSize]) (.o16 0x1234)) = true := by decide
theorem test_decode_movAlMoffs8RexW :
    reads ctx64 [0x48, 0xA0, 0x88, 0x77, 0x66, 0x55, 0x44, 0x33, 0x22, 0x11]
      (.movAlMoffs8RexW rexW (.o64 0x1122334455667788)) = true := by decide
theorem test_decode_movAxMoffs16 : reads ctx16 [0xA1, 0x34, 0x12] (.movAxMoffs16 bare (.o16 0x1234)) = true := by decide
theorem test_decode_movEaxMoffs32 :
    reads ctx64 [0x67, 0xA1, 0x78, 0x56, 0x34, 0x12] (.movEaxMoffs32 (pre [.addrSize]) (.o32 0x12345678)) = true := by decide
theorem test_decode_movRaxMoffs64 :
    reads ctx64 [0x48, 0xA1, 0, 0x20, 0, 0, 0, 0, 0, 0] (.movRaxMoffs64 rexW (.o64 0x2000)) = true := by decide
theorem test_decode_movMoffs8Al :
    reads ctx32 [0xA2, 0x78, 0x56, 0x34, 0x12] (.movMoffs8Al bare (.o32 0x12345678)) = true := by decide
theorem test_decode_movMoffs8AlRexW :
    reads ctx64 [0x48, 0xA2, 0, 0x10, 0, 0, 0, 0, 0, 0] (.movMoffs8AlRexW rexW (.o64 0x1000)) = true := by decide
theorem test_decode_movMoffs16Ax :
    reads ctx32 [0x66, 0xA3, 0x78, 0x56, 0x34, 0x12] (.movMoffs16Ax (pre [.opSize]) (.o32 0x12345678)) = true := by decide
theorem test_decode_movMoffs32Eax :
    reads ctx32 [0xA3, 0x78, 0x56, 0x34, 0x12] (.movMoffs32Eax bare (.o32 0x12345678)) = true := by decide
theorem test_decode_movMoffs64Rax :
    reads ctx64 [0x48, 0xA3, 0, 0x20, 0, 0, 0, 0, 0, 0] (.movMoffs64Rax rexW (.o64 0x2000)) = true := by decide
theorem test_decode_movR8Imm8 : reads ctx32 [0xB4, 0x7F] (.movR8Imm8 bare 4 0x7F) = true := by decide
theorem test_decode_movR8Imm8Rex :
    reads ctx64 [0x41, 0xB0, 0x01] (.movR8Imm8Rex (withRex false false false true) 0 1) = true := by decide
theorem test_decode_movR16Imm16 : reads ctx32 [0x66, 0xB8, 0x34, 0x12] (.movR16Imm16 (pre [.opSize]) 0 0x1234) = true := by decide
theorem test_decode_movR32Imm32 :
    reads ctx16 [0x66, 0xBB, 0x78, 0x56, 0x34, 0x12] (.movR32Imm32 (pre [.opSize]) 3 0x12345678) = true := by decide
theorem test_decode_movR64Imm64 :
    reads ctx64 [0x49, 0xBF, 0xEF, 0xCD, 0xAB, 0x89, 0x67, 0x45, 0x23, 0x01]
      (.movR64Imm64 (withRex true false false true) 7 0x0123456789ABCDEF) = true := by decide
theorem test_decode_movRm8Imm8 :
    reads ctx32 [0xC6, 0x47, 0xFF, 0x80] (.movRm8Imm8 bare (.mem (.based 7 (.d8 0xFF))) 0x80) = true := by decide
theorem test_decode_movRm8Imm8Rex :
    reads ctx64 [0x41, 0xC6, 0x00, 0xFF]
      (.movRm8Imm8Rex (withRex false false false true) (.mem (.based 0 .none)) 0xFF) = true := by decide
theorem test_decode_movRm16Imm16 :
    reads ctx32 [0x66, 0xC7, 0x03, 0x34, 0x12] (.movRm16Imm16 (pre [.opSize]) (.mem (.based 3 .none)) 0x1234) = true := by decide
theorem test_decode_movRm32Imm32 :
    reads ctx32 [0xC7, 0x45, 0xFC, 1, 0, 0, 0] (.movRm32Imm32 bare (.mem (.based 5 (.d8 0xFC))) 1) = true := by decide
theorem test_decode_movRm64Imm32 :
    reads ctx64 [0x48, 0xC7, 0x03, 0, 0, 0, 0x80] (.movRm64Imm32 rexW (.mem (.based 3 .none)) 0x80000000) = true := by decide
theorem test_decode_movR32Cr : reads ctx32 [0x66, 0x0F, 0x20, 0xC0] (.movR32Cr (pre [.opSize]) 3 0 0) = true := by decide
theorem test_decode_movR64Cr :
    reads ctx64 [0x41, 0x0F, 0x20, 0xD8] (.movR64Cr (withRex false false false true) 3 3 0) = true := by decide
theorem test_decode_movR64Cr8 :
    reads ctx64 [0x44, 0x0F, 0x20, 0xC1] (.movR64Cr8 (withRex false true false false) 3 1) = true := by decide
theorem test_decode_movCrR32 : reads ctx32 [0x0F, 0x22, 0xD0] (.movCrR32 bare 3 2 0) = true := by decide
theorem test_decode_movCrR64 : reads ctx64 [0x0F, 0x22, 0xE1] (.movCrR64 bare 3 4 1) = true := by decide
theorem test_decode_movCr8R64 :
    reads ctx64 [0x44, 0x0F, 0x22, 0xC0] (.movCr8R64 (withRex false true false false) 3 0) = true := by decide
theorem test_decode_movR32Dr : reads ctx32 [0x0F, 0x21, 0x38] (.movR32Dr bare 0 7 0) = true := by decide
theorem test_decode_movR64Dr :
    reads ctx64 [0x41, 0x0F, 0x21, 0xF9] (.movR64Dr (withRex false false false true) 3 7 1) = true := by decide
theorem test_decode_movDrR32 : reads ctx32 [0x0F, 0x23, 0xC3] (.movDrR32 bare 3 0 3) = true := by decide
theorem test_decode_movDrR64 :
    reads ctx64 [0x41, 0x0F, 0x23, 0xC1] (.movDrR64 (withRex false false false true) 3 0 1) = true := by decide

/-- V40-21: mod 00, rm 100, SIB with base 101 and index 100: no register (R116). -/
theorem test_decode_sib_no_base :
    reads ctx64 [0x64, 0x8B, 0x04, 0x25, 0, 0, 0, 0] (.movR32Rm32 (pre [.segOverride .fs]) 0 (.mem (.sibNoBase 0 4 0))) = true := by
  decide

/-- A REX byte that a prefix follows is no REX prefix (R109). -/
theorem test_decode_dead_rex :
    reads ctx64 [0x48, 0x66, 0x89, 0xD8]
      (.movRm16R16 (pre [.deadRex (rex true false false false), .opSize]) 3 (.reg 0)) = true := by decide

/-! Bytes the spec refuses (R101, R107, R123, R130). -/

theorem test_decode_refuses_other_opcode : decode ctx32 [0x90] = .error (.notMov 0x90) := by decide
theorem test_decode_refuses_rex_in_prot : decode ctx32 [0x48, 0x89, 0xD8] = .error (.notMov 0x48) := by decide
theorem test_decode_refuses_other_0F : decode ctx32 [0x0F, 0x24, 0xC0] = .error (.notMovTwoByte 0x24) := by decide
theorem test_decode_refuses_C6_1 : decode ctx32 [0xC6, 0x0B, 0x00] = .error (.notExtensionZero 1) := by decide
theorem test_decode_refuses_rep : decode ctx32 [0xF3, 0x89, 0xD8] = .error .repPrefix := by decide
theorem test_decode_refuses_two_66 : decode ctx32 [0x66, 0x66, 0x89, 0xD8] = .error .repeatedOpSize := by decide
theorem test_decode_refuses_two_67 : decode ctx32 [0x67, 0x67, 0x89, 0xD8] = .error .repeatedAddrSize := by decide
theorem test_decode_refuses_five_prefixes :
    decode ctx32 [0x26, 0x26, 0x26, 0x26, 0x26, 0x89, 0xD8] = .error .tooManyPrefixes := by decide
theorem test_decode_refuses_16_bytes :
    decode ctx64 [0x48, 0x48, 0x48, 0x48, 0x48, 0x48, 0x48, 0xB8, 0, 0, 0, 0, 0, 0, 0, 0] = .error .tooLong := by decide
theorem test_decode_refuses_truncated : decode ctx32 [0xB8, 1, 2, 3] = .error .truncated := by decide

/-! ## One step each -/

/-- V40-1. -/
theorem test_step_88 :
    next (run (setRegs user32 [(0, 0x11223344), (3, 0xAA)]) [0x88, 0xDC]) (fun t => t.reg 0 == 0x1122AA44) = true := by decide
/-- V40-3. -/
theorem test_step_88_rex :
    next (run (setRegs user64 [(0, 0xA1B2), (4, 0x00007FFFFFFFE0F8)]) [0x40, 0x88, 0xE0]) (fun t => t.reg 0 == 0xA1F8) = true := by
  decide
/-- V40-6. -/
theorem test_step_89_16 :
    next (run (setRegs user32 [(0, 0x11223344), (3, 0xAAAABBBB)]) [0x66, 0x89, 0xD8]) (fun t => t.reg 0 == 0x1122BBBB) = true := by
  decide
/-- V40-8. -/
theorem test_step_89_32_clears_high :
    next (run (setRegs user64 [(0, 0xFFFFFFFFFFFFFFFF), (3, 0x180000001)]) [0x89, 0xD8]) (fun t => t.reg 0 == 0x80000001) = true := by
  decide
/-- V40-13. -/
theorem test_step_89_32_little_endian :
    next (run (setRegs user32 [(7, 0x3000), (0, 0x11223344)]) [0x89, 0x07])
      (fun t => t.mem == [(0x3000, 0x44), (0x3001, 0x33), (0x3002, 0x22), (0x3003, 0x11)]) = true := by decide
/-- V40-12. -/
theorem test_step_89_64 :
    next (run (setRegs user64 [(8, 0x8877665544332211)]) [0x4C, 0x89, 0xC0]) (fun t => t.reg 0 == 0x8877665544332211) = true := by
  decide
/-- V40-14. -/
theorem test_step_8A :
    next (run (setMem (setRegs user32 [(7, 0x2000), (0, 0xFFFFFF00)]) [(0x2000, 0x7F)]) [0x8A, 0x07])
      (fun t => t.reg 0 == 0xFFFFFF7F) = true := by decide
/-- V40-16. -/
theorem test_step_8A_rex :
    next (run (setMem (setRegs user64 [(8, 0x3000)]) [(0x3000, 0x80)]) [0x41, 0x8A, 0x00]) (fun t => t.reg 0 == 0x80) = true := by
  decide
/-- V40-23: the offset wraps modulo 2^16. -/
theorem test_step_8B_16_wraps :
    next (run (setMem (setRegs real16 [(3, 0xFFFF), (6, 2)]) [(0x10001, 0xCD), (0x10002, 0xAB)]) [0x8B, 0x00])
      (fun t => t.reg 0 == 0xABCD) = true := by decide
/-- V40-19: the source is also the destination. -/
theorem test_step_8B_32_old_address :
    next (run (setMem (setRegs user32 [(0, 0x4000)]) [(0x4000, 0x78), (0x4001, 0x56), (0x4002, 0x34), (0x4003, 0x12)]) [0x8B, 0x00])
      (fun t => t.reg 0 == 0x12345678) = true := by decide
/-- V40-18: base, scaled index and displacement. -/
theorem test_step_8B_32_sib :
    next (run (setMem (setRegs user32 [(3, 0x1000), (1, 3)]) [(0x101C, 0xEF), (0x101D, 0xBE), (0x101E, 0xAD), (0x101F, 0xDE)])
      [0x8B, 0x44, 0x8B, 0x10]) (fun t => t.reg 0 == 0xDEADBEEF) = true := by decide
/-- V40-20 at pc 900000H: RIP-relative to the end of the instruction. -/
theorem test_step_8B_64_rip :
    next (run (setMem user64 [(0x900017, 1), (0x90001E, 8)]) [0x48, 0x8B, 0x05, 0x10, 0, 0, 0])
      (fun t => t.reg 0 == 0x0800000000000001 && t.pc == 0x900007) = true := by decide
/-- V40-77: a base of RBP goes through SS. -/
theorem test_step_8B_64_stack_fault :
    except (run (setRegs user64 [(5, 0x0000900000000000)]) [0x48, 0x8B, 0x45, 0xF8]) (.ss (some 0)) = true := by decide
/-- V41-1. -/
theorem test_step_8C_32 :
    next (run (setRegs user32 [(0, 0xFFFFFFFF)]) [0x8C, 0xD8]) (fun t => t.reg 0 == 0x2B) = true := by decide
/-- V41-3: two bytes of memory at every operand size. -/
theorem test_step_8C_memory :
    next (run (setMem (setRegs user32 [(3, 0x6000)]) [(0x6001, 0xFF), (0x6002, 0xFF)]) [0x8C, 0x1B])
      (fun t => t.mem == [(0x6000, 0x2B), (0x6002, 0xFF)]) = true := by decide
/-- V41-6. -/
theorem test_step_8C_64 :
    next (run (setRegs user64 [(0, 0xFFFFFFFFFFFFFFFF)]) [0x48, 0x8C, 0xD8]) (fun t => t.reg 0 == 0x2B) = true := by decide
/-- V41-5: the 66H prefix makes no difference. -/
theorem test_step_8E_ds :
    next (run (setRegs user32 [(0, 0xFFFF0033)]) [0x66, 0x8E, 0xD8]) (fun t => t.seg.ds == dataSeg 0x33 0x100000 0xFFFF 3) = true := by
  decide
/-- V41-27: a load of SS starts the interrupt inhibition. -/
theorem test_step_8E_ss :
    next (run (setRegs user32 [(0, 0x33)]) [0x8E, 0xD0])
      (fun t => t.seg.ss == dataSeg 0x33 0x100000 0xFFFF 3 && t.intShadow) = true := by decide
/-- V41-10: NULL is accepted, the low two bits are kept (V41-15). -/
theorem test_step_8E_64_null :
    next (run (setRegs user64 [(0, 0xFFFFFFFFFFFF0003)]) [0x48, 0x8E, 0xD8]) (fun t => t.seg.ds.sel == 3) = true := by decide
/-- V40-26. -/
theorem test_step_A0 :
    next (run (setMem user32 [(0x1234, 0x55)]) [0x67, 0xA0, 0x34, 0x12]) (fun t => t.reg 0 == 0x55 && t.pc == 0x900004) = true := by
  decide
/-- V40-27. -/
theorem test_step_A0_rexW :
    next (run (setMem (setRegs user64 [(0, 0xFFFFFFFFFFFFFF00)]) [(0x1000, 0x77)]) [0x48, 0xA0, 0, 0x10, 0, 0, 0, 0, 0, 0])
      (fun t => t.reg 0 == 0xFFFFFFFFFFFFFF77) = true := by decide
/-- V40-29. -/
theorem test_step_A1_16 :
    next (run (setMem real16 [(0x11234, 0xEF), (0x11235, 0xBE)]) [0xA1, 0x34, 0x12]) (fun t => t.reg 0 == 0xBEEF) = true := by
  decide
/-- V40-30. -/
theorem test_step_A1_32 :
    next (run (setMem user32 [(0x12345678, 4), (0x12345679, 3), (0x1234567A, 2), (0x1234567B, 1)]) [0xA1, 0x78, 0x56, 0x34, 0x12])
      (fun t => t.reg 0 == 0x01020304) = true := by decide
/-- V40-32, with two bytes of the eight. -/
theorem test_step_A1_64 :
    next (run (setMem user64 [(0x2000, 0x88), (0x2007, 0x11)]) [0x48, 0xA1, 0, 0x20, 0, 0, 0, 0, 0, 0])
      (fun t => t.reg 0 == 0x1100000000000088) = true := by decide
/-- V40-33. -/
theorem test_step_A2 :
    next (run (setRegs user32 [(0, 0xC3)]) [0xA2, 0x78, 0x56, 0x34, 0x12]) (fun t => t.mem == [(0x12345678, 0xC3)]) = true := by
  decide
/-- V40-34. -/
theorem test_step_A2_rexW :
    next (run (setRegs user64 [(0, 0x5A)]) [0x48, 0xA2, 0, 0x10, 0, 0, 0, 0, 0, 0]) (fun t => t.mem == [(0x1000, 0x5A)]) = true := by
  decide
/-- V40-35. -/
theorem test_step_A3_16 :
    next (run (setRegs user32 [(0, 0xBEEF)]) [0x66, 0xA3, 0x78, 0x56, 0x34, 0x12])
      (fun t => t.mem == [(0x12345678, 0xEF), (0x12345679, 0xBE)]) = true := by decide
/-- V40-36. -/
theorem test_step_A3_32 :
    next (run (setRegs user32 [(0, 0x01020304)]) [0xA3, 0x78, 0x56, 0x34, 0x12])
      (fun t => t.mem == [(0x12345678, 4), (0x12345679, 3), (0x1234567A, 2), (0x1234567B, 1)]) = true := by decide
/-- V40-37. -/
theorem test_step_A3_64 :
    next (run (setRegs user64 [(0, 0x1122334455667788)]) [0x48, 0xA3, 0, 0x20, 0, 0, 0, 0, 0, 0])
      (fun t => t.mem == [(0x2000, 0x88), (0x2001, 0x77), (0x2002, 0x66), (0x2003, 0x55), (0x2004, 0x44), (0x2005, 0x33),
        (0x2006, 0x22), (0x2007, 0x11)]) = true := by decide
/-- V40-38. -/
theorem test_step_B4 : next (run user32 [0xB4, 0x7F]) (fun t => t.reg 0 == 0x7F00) = true := by decide
/-- V40-39. -/
theorem test_step_B4_rex :
    next (run (setRegs user64 [(4, 0x00007FFFFFFFE0F8)]) [0x40, 0xB4, 1]) (fun t => t.reg 4 == 0x00007FFFFFFFE001) = true := by
  decide
/-- V40-43. -/
theorem test_step_B8_16 :
    next (run (setRegs user64 [(8, 0xFFFFFFFFFFFFFFFF)]) [0x66, 0x41, 0xB8, 0x34, 0x12])
      (fun t => t.reg 8 == 0xFFFFFFFFFFFF1234) = true := by decide
/-- V40-42. -/
theorem test_step_B8_32 :
    next (run real16 [0x66, 0xB8, 0x78, 0x56, 0x34, 0x12]) (fun t => t.reg 0 == 0x12345678) = true := by decide
/-- V40-46. -/
theorem test_step_B8_64 :
    next (run user64 [0x49, 0xBF, 0xEF, 0xCD, 0xAB, 0x89, 0x67, 0x45, 0x23, 1])
      (fun t => t.reg 15 == 0x0123456789ABCDEF && t.pc == 0x90000A) = true := by decide
/-- V40-49. -/
theorem test_step_C6 :
    next (run user32 [0xC6, 0x47, 0xFF, 0x80]) (fun t => t.mem == [(0xFFFFFFFF, 0x80)]) = true := by decide
/-- V40-50. -/
theorem test_step_C6_rex :
    next (run (setRegs user64 [(8, 0x3000)]) [0x41, 0xC6, 0, 0xFF]) (fun t => t.mem == [(0x3000, 0xFF)]) = true := by decide
/-- V40-51. -/
theorem test_step_C7_16 :
    next (run (setRegs user32 [(3, 0x6000)]) [0x66, 0xC7, 3, 0x34, 0x12])
      (fun t => t.mem == [(0x6000, 0x34), (0x6001, 0x12)] && t.pc == 0x900005) = true := by decide
/-- V40-52: through SS, so the NULL DS does no harm. -/
theorem test_step_C7_32 :
    next (run (withDs (setRegs user32 [(5, 0x8000)]) (dataSeg 0 0 0 0)) [0xC7, 0x45, 0xFC, 1, 0, 0, 0])
      (fun t => t.mem == [(0x7FFC, 1)]) = true := by decide
/-- V40-53. -/
theorem test_step_C7_64_sign :
    next (run user64 [0x48, 0xC7, 0xC0, 0xFF, 0xFF, 0xFF, 0xFF]) (fun t => t.reg 0 == 0xFFFFFFFFFFFFFFFF) = true := by decide
/-- V40-55. -/
theorem test_step_C7_64_positive :
    next (run user64 [0x48, 0xC7, 0xC0, 0xFF, 0xFF, 0xFF, 0x7F]) (fun t => t.reg 0 == 0x7FFFFFFF) = true := by decide
/-- V42-2: mod is ignored. -/
theorem test_step_0F20_32 :
    next (run { kernel32 with cr0 := 0x80010011 } [0x0F, 0x20, 0x00]) (fun t => t.reg 0 == 0x80010011 && t.pc == 0x900003) = true := by
  decide
/-- V42-10: #UD is tested before #GP(0). -/
theorem test_step_0F20_32_cr1 : except (run user32 [0x0F, 0x20, 0xC8]) .ud = true := by decide
/-- V42-5. -/
theorem test_step_0F20_64 :
    next (run { kernel64 with cr0 := 0x80050033 } [0x41, 0x0F, 0x20, 0xC0]) (fun t => t.reg 8 == 0x80050033) = true := by decide
/-- V42-7. -/
theorem test_step_0F20_64_cr9 : except (run kernel64 [0x44, 0x0F, 0x20, 0xC8]) .ud = true := by decide
/-- V42-6. -/
theorem test_step_0F20_cr8 :
    next (run { kernel64 with cr8 := 3 } [0x44, 0x0F, 0x20, 0xC0]) (fun t => t.reg 0 == 3) = true := by decide
/-- V42-18 and V42-19: the reserved bit is dropped, ET stays 1. -/
theorem test_step_0F22_32_cr0 :
    next (run (setRegs kernel32 [(0, 0x41)]) [0x0F, 0x22, 0xC0]) (fun t => t.cr0 == 0x11) = true := by decide
/-- V42-22: a change of the mode is refused. -/
theorem test_step_0F22_32_mode : refused (run (setRegs real16 [(0, 0x11)]) [0x0F, 0x22, 0xC0]) .modeChange = true := by decide
/-- V42-28. -/
theorem test_step_0F22_64_cr3 :
    next (run (setRegs { kernel64 with cr4 := 0x20020 } [(0, 0x8000000000101005)]) [0x0F, 0x22, 0xD8])
      (fun t => t.cr3 == 0x101005 && t.tlb == [.cr3Write true]) = true := by decide
/-- V42-34. -/
theorem test_step_0F22_64_cr4 :
    except (run (setRegs { kernel64 with cr3 := 0x101005 } [(0, 0x20020)]) [0x0F, 0x22, 0xE0]) (.gp (some 0)) = true := by decide
/-- V42-37. -/
theorem test_step_0F22_cr8 :
    next (run (setRegs kernel64 [(0, 5)]) [0x44, 0x0F, 0x22, 0xC0]) (fun t => t.cr8 == 5 && t.tlb == []) = true := by decide
/-- V42-38. -/
theorem test_step_0F22_cr8_reserved :
    except (run (setRegs kernel64 [(0, 0x10)]) [0x44, 0x0F, 0x22, 0xC0]) (.gp (some 0)) = true := by decide
/-- V43-2: DR4 is DR6 while DE = 0. -/
theorem test_step_0F21_32_alias : next (run kernel32 [0x0F, 0x21, 0xE0]) (fun t => t.reg 0 == 0xFFFF0FF0) = true := by decide
/-- V43-8. -/
theorem test_step_0F21_32_detect : except (run { kernel32 with dr7 := 0x2400 } [0x0F, 0x21, 0xC0]) .db = true := by decide
/-- V43-13. -/
theorem test_step_0F21_64 : next (run kernel64 [0x41, 0x0F, 0x21, 0xF9]) (fun t => t.reg 9 == 0x400) = true := by decide
/-- V43-14. -/
theorem test_step_0F21_64_rexR : except (run kernel64 [0x44, 0x0F, 0x21, 0xC0]) .ud = true := by decide
/-- V43-5: DR5 is DR7 while DE = 0. -/
theorem test_step_0F23_32_alias :
    next (run (setRegs kernel32 [(0, 0x401)]) [0x0F, 0x23, 0xE8]) (fun t => t.dr7 == 0x401) = true := by decide
/-- V43-15. -/
theorem test_step_0F23_64 :
    next (run (setRegs kernel64 [(9, 0xFFFF800000001000)]) [0x41, 0x0F, 0x23, 0xC1]) (fun t => t.dr0 == 0xFFFF800000001000) = true := by
  decide
/-- V43-17. -/
theorem test_step_0F23_64_high :
    except (run (setRegs kernel64 [(0, 0x100000000)]) [0x0F, 0x23, 0xE0]) (.gp (some 0)) = true := by decide

/-! The machine around the instructions. -/

/-- The end of the text is the end of a run (R345). -/
theorem test_step_end_of_text : refused (step State.reset) .endOfText = true := by decide
/-- pc outside the text (R79). -/
theorem test_step_outside_text :
    refused (step { user32 with text := { start := 0x1000, bytes := [0x88, 0xDC] } }) .pcOutsideText = true := by decide
/-- An interrupt is taken where int_shadow is 0 (R318), and not where it is 1. -/
theorem test_step_interrupt :
    interrupted (run { user32 with offers := [true] } [0x88, 0xDC]) = true
      ∧ next (run { user32 with offers := [true, false], intShadow := true } [0x88, 0xDC])
        (fun t => t.offers == [false] && !t.intShadow) = true := by decide
/-- A store into the text is refused (R89). -/
theorem test_step_store_into_text : refused (run (setRegs user32 [(7, 0x900001)]) [0x88, 0x07]) .storeIntoText = true := by decide
/-- A read through an execute-only code segment is refused (R68, N10). -/
theorem test_step_execute_only :
    refused (run { user32 with seg := { user32.seg with cs := { sel := 0x4B, hidden := { (codeSeg 0 0xFFFFFFFF 3).hidden with readable := false } } } }
      [0x2E, 0x8A, 0x07]) .unreadableCodeRead = true := by decide
/-- An address that does not exist is refused (R83). -/
theorem test_step_unmapped :
    refused (run { user32 with par := { plainPar with mapped := [(0, 0xFFF)] } } [0xA2, 0x00, 0x10, 0, 0]) (.unmapped 0x1000) = true := by
  decide
/-- The segment checks come before the alignment check (V40-83). -/
theorem test_step_limit_before_alignment :
    except (run (withDs (checkAlign (setRegs user32 [(3, 0xFFD)])) (dataSeg 0x2B 0 0xFFF 3)) [0x8B, 0x03]) (.gp (some 0)) = true := by
  decide
/-- A table word with its first byte lowest, and one with its first byte highest, run as the first instruction. -/
theorem test_table_word :
    decodeTableWord 8 0x89 = some (.movRm16R16 bare 0 (.mem (.regs16 0 .none)))
      ∧ decodeTableWord 16 0x200F = some (.movR32Cr bare 0 0 0) ∧ decodeTableWord 16 0x0F20 = some (.movR32Cr bare 0 0 0)
      ∧ decodeTableWord 24 0x0F2240 = some (.movCrR32 bare 1 0 0)
      ∧ next (step (State.reset.withFetchWord 16 0xC600)) (fun t => t.pc == 0xFFF3) = true := by decide

/-! ## Witnesses: states and operands that meet the hypotheses of each statement, clause by clause -/

theorem next_elim (o : Outcome) (f : State → Bool) (h : next o f = true) : ∃ t, o = .next t ∧ f t = true := by
  cases o with
  | next t => exact ⟨t, rfl, h⟩
  | fault f => cases h
  | refused r => cases h

theorem next_after (o : Outcome) (h : next o (fun _ => true) = true) : o = .next (after o) := by
  cases o with
  | next t => rfl
  | fault f => cases h
  | refused r => cases h

/-- An instruction of 15 bytes, the longest. -/
theorem witness_DecodeEncode :
    (Instr.movRm32Imm32 (pre [.lock, .lock, .lock, .lock]) (.mem (.sib 0 0 0 (.d32 0))) 0).wf ctx32 = true
      ∧ (Instr.movRm32Imm32 (pre [.lock, .lock, .lock, .lock]) (.mem (.sib 0 0 0 (.d32 0))) 0).size = 15 := by decide

theorem witness_EncodeDecode : decode ctx32 [0x88, 0xDC, 0x90] = .ok (.movRm8R8 bare 3 (.reg 4), [0x90]) := by decide

/-- An instruction of 16 bytes. -/
def sixteen : Instr :=
  .movRm32Imm32 (pre [.deadRex (rex false false false false), .lock, .lock, .lock, .lock]) (.mem (.sib 0 0 0 (.d32 0))) 0

theorem witness_TooLongRefused : sixteen.rowOk ctx64 = true ∧ 15 < sixteen.size ∧ sixteen.size = 16 := by decide

theorem witness_OutsideTheMap_extension :
    ({ pre := [.opSize], rex := some (rex false false false true) } : Prefixes).wf ctx64 = true
      ∧ ((0xC6 : Byte) = 0xC6 ∨ (0xC6 : Byte) = 0xC7) ∧ (7 : BitVec 3) ≠ 0 := by decide
theorem witness_OutsideTheMap_rex_byte : (pre [.lock]).wf ctx32 = true ∧ ctx32.mode ≠ .long64 := by decide
/-- The bytes next to those of the map: 3FH and 50H in LONG64, 87H, 8DH, 8FH, 9FH, A4H, AFH, C0H, C5H and C8H. -/
theorem witness_OutsideTheMap_opcode :
    rexW.wf ctx64 = true
      ∧ ∀ b ∈ [(0x3F : Byte), 0x50, 0x87, 0x8D, 0x8F, 0x9F, 0xA4, 0xAF, 0xC0, 0xC5, 0xC8],
        b ∉ [(0x26 : Byte), 0x2E, 0x36, 0x3E, 0x64, 0x65, 0x66, 0x67, 0xF0, 0xF2, 0xF3]
          ∧ ¬ (ctx64.mode = .long64 ∧ 0x40 ≤ b.toNat ∧ b.toNat ≤ 0x4F)
          ∧ b ∉ [(0x0F : Byte), 0x88, 0x89, 0x8A, 0x8B, 0x8C, 0x8E, 0xA0, 0xA1, 0xA2, 0xA3, 0xC6, 0xC7]
          ∧ ¬ (0xB0 ≤ b.toNat ∧ b.toNat ≤ 0xBF) := by decide
theorem witness_OutsideTheMap_two_byte :
    bare.wf ctx16 = true ∧ (0x1F : Byte) ∉ [(0x20 : Byte), 0x21, 0x22, 0x23]
      ∧ (0x24 : Byte) ∉ [(0x20 : Byte), 0x21, 0x22, 0x23] := by decide
theorem witness_OutsideTheMap_rep :
    (ctx64.mode = .long64 ∨ [Prefix.deadRex (rex true false false false)].all Prefix.isLegacy = true)
      ∧ (ctx32.mode = .long64 ∨ [Prefix.lock, .segOverride .gs].all Prefix.isLegacy = true) := by decide
theorem witness_OutsideTheMap_repeated :
    2 ≤ [Prefix.opSize, .deadRex (rex true false false false), .opSize].count .opSize
      ∧ 2 ≤ [Prefix.addrSize, .addrSize].count .addrSize
      ∧ 5 ≤ [Prefix.lock, .lock, .lock, .lock, .lock].countP Prefix.isLegacy := by decide

theorem witness_EffectiveAddress_a32 :
    addrSize user32.ctx bare = .a32 ∧ user32.mode ≠ .long64 ∧ addrSize user64.ctx (pre [.addrSize]) = .a32
      ∧ user64.mode = .long64 := by decide
theorem witness_EffectiveAddress_a64 : addrSize user64.ctx bare = .a64 ∧ user64.mode = .long64 := by decide
/-- BP and DI with a sum behind FFFFH. -/
theorem witness_EffectiveAddress_a16 :
    let s := setRegs real16 [(5, 0xFFFF), (7, 1)]
    addrSize s.ctx bare = .a16
      ∧ ((3 : BitVec 3), 0x10000) ∈ [((0 : BitVec 3), (s.reg 3).toNat + (s.reg 6).toNat),
        (1, (s.reg 3).toNat + (s.reg 7).toNat), (2, (s.reg 5).toNat + (s.reg 6).toNat),
        (3, (s.reg 5).toNat + (s.reg 7).toNat), (4, (s.reg 6).toNat), (5, (s.reg 7).toNat), (6, (s.reg 5).toNat),
        (7, (s.reg 3).toNat)] := by decide
theorem witness_EffectiveAddress_sizes :
    (addrSize ctx64 (pre [.addrSize]), 32) ∈ [(AddrSize.a16, 16), (.a32, 32), (.a64, 64)]
      ∧ (addrSize { mode := .compat, csD := .bits16 } bare, 16) ∈ [(AddrSize.a16, 16), (.a32, 32), (.a64, 64)] := by decide

theorem witness_LinearAddress_32 : real16.mode ≠ .long64 ∧ compat32.mode ≠ .long64 := by decide
theorem witness_LinearAddress_fs : user64.mode = .long64 ∧ (Sreg.fs = .fs ∨ Sreg.fs = .gs) := by decide
theorem witness_LinearAddress_ss : user64.mode = .long64 ∧ Sreg.ss ≠ .fs ∧ Sreg.ss ≠ .gs := by decide

theorem witness_SegmentChoice_last :
    user32.mode ≠ .long64
      ∧ (pre [.segOverride .fs, .segOverride .es, .lock]).pre = [.segOverride .fs] ++ .segOverride .es :: [.lock]
      ∧ ∀ r, Prefix.segOverride r ∉ [Prefix.lock] := by
  refine ⟨by decide, by decide, fun r => ?_⟩
  cases r <;> decide
theorem witness_SegmentChoice_none : user32.mode ≠ .long64 ∧ ∀ r, Prefix.segOverride r ∉ (pre [.lock]).pre := by
  refine ⟨by decide, fun r => ?_⟩
  cases r <;> decide
theorem witness_SegmentChoice_last_long64 :
    user64.mode = .long64
      ∧ (pre [.segOverride .fs, .segOverride .gs, .segOverride .es]).pre = [.segOverride .fs] ++ .segOverride .gs :: [.segOverride .es]
      ∧ (Sreg.gs = .fs ∨ Sreg.gs = .gs) ∧ Prefix.segOverride .fs ∉ [Prefix.segOverride .es]
      ∧ Prefix.segOverride .gs ∉ [Prefix.segOverride .es] := by decide
theorem witness_SegmentChoice_none_long64 :
    user64.mode = .long64 ∧ Prefix.segOverride .fs ∉ (pre [.segOverride .cs]).pre
      ∧ Prefix.segOverride .gs ∉ (pre [.segOverride .cs]).pre := by decide
/-- The default segments: BP; rBP and rSP as a base; and none of these, number 13 among them. -/
theorem witness_SegmentChoice_stack :
    (∃ rm d, MemForm.regs16 6 (.d8 0) = .regs16 rm d ∧ (rm = 2 ∨ rm = 3 ∨ rm = 6))
      ∧ (∃ rm d, MemForm.based 5 (.d8 0) = .based rm d ∧ bare.rmNum rm = 5)
      ∧ ∃ scale index base d, MemForm.sib 0 4 4 .none = .sib scale index base d
        ∧ (bare.rmNum base = 4 ∨ bare.rmNum base = 5) :=
  ⟨⟨_, _, rfl, by decide⟩, ⟨_, _, rfl, by decide⟩, _, _, _, _, rfl, by decide⟩
theorem witness_SegmentChoice_data :
    ¬ ((∃ rm d, MemForm.based 5 (.d8 0) = .regs16 rm d ∧ (rm = 2 ∨ rm = 3 ∨ rm = 6))
      ∨ (∃ rm d, MemForm.based 5 (.d8 0) = .based rm d ∧ (withRex false false false true).rmNum rm = 5)
      ∨ ∃ scale index base d, MemForm.based 5 (.d8 0) = .sib scale index base d
        ∧ ((withRex false false false true).rmNum base = 4 ∨ (withRex false false false true).rmNum base = 5)) := by
  rintro (⟨_, _, h, -⟩ | ⟨_, _, h, hn⟩ | ⟨_, _, _, _, h, -⟩) <;> cases h
  exact absurd hn (by decide)

/-- The last word of a segment of 64 KiB. -/
theorem witness_AccessInReal :
    real16.mode = .real ∧ (real16.sreg .ds).hidden.limit.contains (0xFFFE : Word).toNat 2 = true
      ∧ ∀ k, k < 2 → real16.isMapped (real16.byteAddr (real16.linear .ds 0xFFFE) k) = true := by decide

theorem witness_AccessInProtected_write :
    user32.mode = .prot ∧ (user32.sreg .ds).hidden.limit.contains (0xFFFFFFFC : Word).toNat 4 = true
      ∧ ((Sreg.ds = .cs ∨ Sreg.ds = .ss ∨ 4 ≤ (user32.sreg .ds).sel.toNat)
        ∧ ((user32.sreg .ds).hidden.kind ≠ .code
          ∧ ((user32.sreg .ds).hidden.kind = .data → (user32.sreg .ds).hidden.writable = true))
        ∧ (Access.write = .read → (user32.sreg .ds).hidden.kind = .code → (user32.sreg .ds).hidden.readable = true))
      ∧ ¬ (user32.cr0.getLsbD 18 = true ∧ user32.flags.ac = true ∧ user32.cpl = 3 ∧ (user32.linear .ds 0xFFFFFFFC).toNat % 4 ≠ 0)
      ∧ user32.pageCheck (user32.linear .ds 0xFFFFFFFC) 4 .write = .ok 0xFFFFFFFC
      ∧ ∀ k, k < 4 → user32.isMapped (user32.byteAddr 0xFFFFFFFC k) = true := by decide
/-- An aligned read while alignment is checked, in V86. -/
theorem witness_AccessInProtected_v86 :
    (checkAlign v86).mode = .v86 ∧ ((checkAlign v86).sreg .ss).hidden.limit.contains (0xFFFE : Word).toNat 2 = true
      ∧ ¬ ((checkAlign v86).cr0.getLsbD 18 = true ∧ (checkAlign v86).flags.ac = true ∧ (checkAlign v86).cpl = 3
        ∧ ((checkAlign v86).linear .ss 0xFFFE).toNat % 2 ≠ 0)
      ∧ (checkAlign v86).pageCheck ((checkAlign v86).linear .ss 0xFFFE) 2 .read = .ok 0x3FFFE
      ∧ ∀ k, k < 2 → (checkAlign v86).isMapped ((checkAlign v86).byteAddr 0x3FFFE k) = true := by decide
/-- A read through CS in compatibility mode, under paging. -/
theorem witness_AccessInProtected_compat :
    compat32.mode = .compat ∧ (compat32.sreg .cs).hidden.limit.contains (0 : Word).toNat 8 = true
      ∧ ((Sreg.cs = .cs ∨ Sreg.cs = .ss ∨ 4 ≤ (compat32.sreg .cs).sel.toNat)
        ∧ (Access.read = .write → (compat32.sreg .cs).hidden.kind ≠ .code
          ∧ ((compat32.sreg .cs).hidden.kind = .data → (compat32.sreg .cs).hidden.writable = true))
        ∧ ((compat32.sreg .cs).hidden.kind = .code → (compat32.sreg .cs).hidden.readable = true))
      ∧ ¬ (compat32.cr0.getLsbD 18 = true ∧ compat32.flags.ac = true ∧ compat32.cpl = 3 ∧ (compat32.linear .cs 0).toNat % 8 ≠ 0)
      ∧ compat32.pageCheck (compat32.linear .cs 0) 8 .read = .ok 0
      ∧ ∀ k, k < 8 → compat32.isMapped (compat32.byteAddr 0 k) = true := by decide

/-- The last eight bytes of the low half of the canonical addresses. -/
theorem witness_AccessInLong64 :
    user64.mode = .long64
      ∧ (∀ k, user64.par.vaBits - 1 ≤ k → k < 64 →
        (user64.linear .ds 0x00007FFFFFFFFFF8).getLsbD k = (user64.linear .ds 0x00007FFFFFFFFFF8).getLsbD 63
          ∧ (user64.linear .ds 0x00007FFFFFFFFFF8 + BitVec.ofNat 64 (8 - 1)).getLsbD k
            = (user64.linear .ds 0x00007FFFFFFFFFF8 + BitVec.ofNat 64 (8 - 1)).getLsbD 63)
      ∧ ¬ (user64.cr0.getLsbD 18 = true ∧ user64.flags.ac = true ∧ user64.cpl = 3
        ∧ (user64.linear .ds 0x00007FFFFFFFFFF8).toNat % 8 ≠ 0)
      ∧ user64.pageCheck (user64.linear .ds 0x00007FFFFFFFFFF8) 8 .write = .ok 0x00007FFFFFFFFFF8
      ∧ ∀ k, k < 8 → user64.isMapped (user64.byteAddr 0x00007FFFFFFFFFF8 k) = true := by decide

/-- The last byte inside each kind of limit, and the first one outside. -/
theorem witness_SegmentFaults_contains :
    (∀ k, k < 2 → 0xFFFE + k ≤ (0xFFFF : BitVec 32).toNat) ∧ ¬ (∀ k, k < 2 → 0xFFFF + k ≤ (0xFFFF : BitVec 32).toNat)
      ∧ (∀ k, k < 2 → (0xFFF : BitVec 32).toNat < 0x1000 + k ∧ 0x1000 + k ≤ 0xFFFF)
      ∧ ¬ ∀ k, k < 2 → (0xFFF : BitVec 32).toNat < 0xFFF + k ∧ 0xFFF + k ≤ 0xFFFF := by decide
theorem witness_SegmentFaults_real :
    real16.mode = .real ∧ (real16.sreg .ds).hidden.limit.contains (0xFFFF : Word).toNat 2 = false := by decide
theorem witness_SegmentFaults_v86 : v86.mode = .v86 ∧ (v86.sreg .ss).hidden.limit.contains (0xFFFF : Word).toNat 2 = false := by
  decide
theorem witness_SegmentFaults_null :
    (withDs user32 (dataSeg 3 0 0xFFFFFFFF 3)).mode = .prot ∧ ((withDs user32 (dataSeg 3 0 0xFFFFFFFF 3)).sreg .ds).sel.toNat < 4 := by
  decide
theorem witness_SegmentFaults_limit :
    compat32.mode = .compat ∧ Sreg.gs ≠ .ss ∧ (compat32.sreg .gs).hidden.limit.contains (0xFFFFFFFF : Word).toNat 2 = false := by decide
theorem witness_SegmentFaults_stack_read :
    user32.mode = .prot ∧ (user32.sreg .ss).hidden.limit.contains (0xFFFFFFFF : Word).toNat 2 = false := by decide
theorem witness_SegmentFaults_code : user32.mode = .prot ∧ (user32.sreg .cs).hidden.kind = .code := by decide
theorem witness_SegmentFaults_read_only :
    (withSs user32 readOnly).mode = .prot
      ∧ (((withSs user32 readOnly).sreg .ss).hidden.kind = .data ∧ ((withSs user32 readOnly).sreg .ss).hidden.writable = false)
      ∧ ((withSs user32 readOnly).sreg .ss).hidden.limit.contains (0xFFFFFFFF : Word).toNat 2 = false := by decide
theorem witness_SegmentFaults_stack_write :
    user32.mode = .prot ∧ (user32.sreg .ss).hidden.kind = .data ∧ (user32.sreg .ss).hidden.writable = true
      ∧ (user32.sreg .ss).hidden.limit.contains (0xFFFFFFFF : Word).toNat 2 = false := by decide
/-- The last byte of the access is the first address that is not canonical. -/
theorem witness_SegmentFaults_canonical :
    user64.mode = .long64 ∧ ∃ k, user64.par.vaBits - 1 ≤ k ∧ k < 64 ∧
      ((user64.linear .ds 0x00007FFFFFFFFFFD).getLsbD k ≠ (user64.linear .ds 0x00007FFFFFFFFFFD).getLsbD 63
        ∨ (user64.linear .ds 0x00007FFFFFFFFFFD + BitVec.ofNat 64 (4 - 1)).getLsbD k
          ≠ (user64.linear .ds 0x00007FFFFFFFFFFD + BitVec.ofNat 64 (4 - 1)).getLsbD 63) :=
  ⟨by decide, 47, by decide⟩

/-- C32 with paging and a page that faults (V40-82). -/
def faulting (s : State) (lin : Word) (n : Nat) : State :=
  { s with
    cr0 := s.cr0 ||| 0x80000000
    par := { plainPar with
      pageTable := [({ cr0 := s.cr0 ||| 0x80000000, cr3 := s.cr3, cr4 := s.cr4, lin := lin, n := n, access := .write, cpl := s.cpl },
        .fault 7)] } }

theorem witness_PageStageFaults_alignment :
    (checkAlign user32).segFault .ds 0x1001 4 .write = none ∧ (checkAlign user32).unreadable .ds .write = false
      ∧ (checkAlign user32).mode ≠ .real
      ∧ ((checkAlign user32).cr0.getLsbD 18 = true ∧ (checkAlign user32).flags.ac = true ∧ (checkAlign user32).cpl = 3
        ∧ ((checkAlign user32).linear .ds 0x1001).toNat % 4 ≠ 0)
      ∧ (checkAlign user32).pageCheck ((checkAlign user32).linear .ds 0x1001) 4 .write = .ok 0x1001 := by decide
theorem witness_PageStageFaults_page :
    (faulting user32 0x2000 4).segFault .ds 0x2000 4 .write = none ∧ (faulting user32 0x2000 4).unreadable .ds .write = false
      ∧ (faulting user32 0x2000 4).mode ≠ .real ∧ (faulting user32 0x2000 4).cr0.getLsbD 18 = false
      ∧ (faulting user32 0x2000 4).pageCheck ((faulting user32 0x2000 4).linear .ds 0x2000) 4 .write = .fault 7 := by decide
theorem witness_PageStageFaults_both :
    let s := faulting (checkAlign user32) 0x2001 4
    s.segFault .ds 0x2001 4 .write = none ∧ s.unreadable .ds .write = false ∧ s.mode ≠ .real
      ∧ (s.cr0.getLsbD 18 = true ∧ s.flags.ac = true ∧ s.cpl = 3 ∧ (s.linear .ds 0x2001).toNat % 4 ≠ 0)
      ∧ s.pageCheck (s.linear .ds 0x2001) 4 .write = .fault 7 := by decide
theorem witness_PageStageFaults_unmapped_real :
    let s := { real16 with par := { plainPar with mapped := [(0, 0x10FFF)] } }
    s.segFault .ds 0x0FFF 2 .read = none ∧ s.unreadable .ds .read = false ∧ s.mode = .real
      ∧ (0x10FFF : Word) = s.linear .ds 0x0FFF ∧ (1 < 2 ∧ s.isMapped (s.byteAddr 0x10FFF 1) = false) := by decide
theorem witness_PageStageFaults_unmapped :
    let s := { user32 with par := { plainPar with mapped := [(0, 0xFFF)] } }
    s.segFault .ds 0x1000 1 .read = none ∧ s.unreadable .ds .read = false ∧ s.mode ≠ .real
      ∧ ¬ (s.cr0.getLsbD 18 = true ∧ s.flags.ac = true ∧ s.cpl = 3 ∧ (s.linear .ds 0x1000).toNat % 1 ≠ 0)
      ∧ s.pageCheck (s.linear .ds 0x1000) 1 .read = .ok 0x1000
      ∧ (0 < 1 ∧ s.isMapped (s.byteAddr 0x1000 0) = false) := by decide

theorem witness_LoadAfterStore :
    ∃ t, (8 : Nat) ≤ 8 ∧ Memory.wf user64.mem ∧ user64.storeOp .ds 0x2000 8 0x1122334455667788 = .ok t
      ∧ user64.access .ds 0x2000 8 .write = .ok 0x2000 ∧ t.access .ds 0x2000 8 .read = .ok 0x2000 :=
  ⟨_, by decide, by decide, rfl, rfl, rfl⟩

theorem witness_RegisterMoves :
    (Width.b8, Instr.movRm8R8 bare 3 (.reg 4), bare.rmNum 4, bare.regNum 3) ∈
        [(Width.b8, Instr.movRm8R8 bare 3 (.reg 4), bare.rmNum 4, bare.regNum 3)] ∧ bare.lock = false := by decide
theorem witness_ImmediateToRegister : (withRex true false false true).lock = false := by decide
theorem witness_ImmediateToRmRegister : rexW.lock = false := by decide

/-- A doubleword of registers to memory, at its address, outside the text. -/
theorem witness_RegisterToMemory :
    bare.lock = false ∧ Memory.wf user32.mem
      ∧ user32.access (user32.segOf bare ((MemForm.based 5 (.d8 0)).defaultSeg bare))
          (user32.memOffset bare (Instr.movRm32R32 bare 0 (.mem (.based 5 (.d8 0)))).size (.based 5 (.d8 0))) Width.b32.bytes .write
        = .ok 0
      ∧ user32.hitsText (user32.linear (user32.segOf bare ((MemForm.based 5 (.d8 0)).defaultSeg bare))
          (user32.memOffset bare (Instr.movRm32R32 bare 0 (.mem (.based 5 (.d8 0)))).size (.based 5 (.d8 0)))) Width.b32.bytes = false :=
  ⟨by decide, by decide, rfl, by decide⟩
theorem witness_MemoryToRegister :
    bare.lock = false
      ∧ user32.access (user32.segOf bare ((MemForm.disp32 0xFFFFFFFC).defaultSeg bare))
          (user32.memOffset bare (Instr.movR32Rm32 bare 0 (.mem (.disp32 0xFFFFFFFC))).size (.disp32 0xFFFFFFFC)) Width.b32.bytes .read
        = .ok 0xFFFFFFFC := ⟨by decide, rfl⟩
theorem witness_OffsetToAccumulator :
    rexW.lock = false ∧ user64.access (user64.segOf rexW .ds) (Moffs.o64 0x2000).value Width.b64.bytes .read = .ok 0x2000 :=
  ⟨by decide, rfl⟩
theorem witness_AccumulatorToOffset :
    bare.lock = false ∧ Memory.wf real16.mem
      ∧ real16.access (real16.segOf bare .ds) (Moffs.o16 0xFFFE).value Width.b16.bytes .write = .ok 0x1FFFE
      ∧ real16.hitsText (real16.linear (real16.segOf bare .ds) (Moffs.o16 0xFFFE).value) Width.b16.bytes = false :=
  ⟨by decide, by decide, rfl, by decide⟩
theorem witness_ImmediateToMemory :
    rexW.lock = false ∧ Memory.wf user64.mem
      ∧ user64.access (user64.segOf rexW ((MemForm.sibNoBase 0 4 0x1000).defaultSeg rexW))
          (user64.memOffset rexW (Instr.movRm64Imm32 rexW (.mem (.sibNoBase 0 4 0x1000)) 0x80000000).size (.sibNoBase 0 4 0x1000))
          Width.b64.bytes .write = .ok 0x1000
      ∧ user64.hitsText (user64.linear (user64.segOf rexW ((MemForm.sibNoBase 0 4 0x1000).defaultSeg rexW))
          (user64.memOffset rexW (Instr.movRm64Imm32 rexW (.mem (.sibNoBase 0 4 0x1000)) 0x80000000).size (.sibNoBase 0 4 0x1000)))
          Width.b64.bytes = false :=
  ⟨by decide, by decide, rfl, by decide⟩

/-- A store through a read-only segment. -/
theorem witness_DataAccessStops_exception :
    (Instr.movRm8R8 bare 0 (.mem (.disp32 0x1000))).prefixes.lock = false
      ∧ (withDs user32 readOnly).dataAccess (.movRm8R8 bare 0 (.mem (.disp32 0x1000)))
        = some { seg := .ds, off := 0x1000, n := 1, acc := .write }
      ∧ (∀ p g rm, Instr.movRm8R8 bare 0 (.mem (.disp32 0x1000)) = .movRm16Sreg p g rm
        ∨ Instr.movRm8R8 bare 0 (.mem (.disp32 0x1000)) = .movRm64Sreg p g rm → g.toNat < 6)
      ∧ (∀ p g rm, Instr.movRm8R8 bare 0 (.mem (.disp32 0x1000)) = .movSregRm16 p g rm
        ∨ Instr.movRm8R8 bare 0 (.mem (.disp32 0x1000)) = .movSregRm64 p g rm → g.toNat < 6 ∧ g ≠ 1)
      ∧ (withDs user32 readOnly).access .ds 0x1000 1 .write = .error (.exception (.gp (some 0))) := by
  refine ⟨by decide, by decide, ?_, ?_, rfl⟩
  · rintro p g rm (h | h) <;> cases h
  · rintro p g rm (h | h) <;> cases h
/-- A load of DS through a NULL DS (V41-43). -/
theorem witness_DataAccessStops_selector :
    (Instr.movSregRm16 bare 3 (.mem (.based 6 .none))).prefixes.lock = false
      ∧ (withDs user32 (dataSeg 0 0 0xFFFFFFFF 3)).dataAccess (.movSregRm16 bare 3 (.mem (.based 6 .none)))
        = some { seg := .ds, off := 0, n := 2, acc := .read }
      ∧ (∀ p g rm, Instr.movSregRm16 bare 3 (.mem (.based 6 .none)) = .movSregRm16 p g rm
        ∨ Instr.movSregRm16 bare 3 (.mem (.based 6 .none)) = .movSregRm64 p g rm → g.toNat < 6 ∧ g ≠ 1)
      ∧ (withDs user32 (dataSeg 0 0 0xFFFFFFFF 3)).access .ds 0 2 .read = .error (.exception (.gp (some 0))) := by
  refine ⟨by decide, by decide, ?_, by decide⟩
  rintro p g rm (h | h) <;> cases h
  decide
/-- A load from an address that does not exist. -/
theorem witness_DataAccessStops_unmapped :
    let s := { user32 with par := { plainPar with mapped := [(0, 0xFFFF)] } }
    s.dataAccess (.movAlMoffs8 bare (.o32 0x10000)) = some { seg := .ds, off := 0x10000, n := 1, acc := .read }
      ∧ s.access .ds 0x10000 1 .read = .error (.refusal (.unmapped 0x10000)) := ⟨by decide, rfl⟩
/-- A store into the text. -/
theorem witness_DataAccessStops_text :
    (textAt user32 [0x90, 0x90]).dataAccess (.movMoffs8Al bare (.o32 0x900001))
        = some { seg := .ds, off := 0x900001, n := 1, acc := .write }
      ∧ (textAt user32 [0x90, 0x90]).access .ds 0x900001 1 .write = .ok 0x900001
      ∧ (textAt user32 [0x90, 0x90]).hitsText ((textAt user32 [0x90, 0x90]).linear .ds 0x900001) 1 = true :=
  ⟨by decide, rfl, by decide⟩

theorem witness_SelectorToRegister :
    ((5 : BitVec 3), Sreg.gs) ∈ [((0 : BitVec 3), Sreg.es), (1, .cs), (2, .ss), (3, .ds), (4, .fs), (5, .gs)] ∧ bare.lock = false
      ∧ (opSize user32.ctx bare ≠ .b32 ∨ user32.mode = .long64 ∨ user32.par.procFamily = .p4XeonP6) := by decide
theorem witness_SelectorToMemory :
    ((1 : BitVec 3), Sreg.cs) ∈ [((0 : BitVec 3), Sreg.es), (1, .cs), (2, .ss), (3, .ds), (4, .fs), (5, .gs)]
      ∧ rexW.lock = false ∧ Memory.wf user64.mem
      ∧ user64.access (user64.segOf rexW ((MemForm.sibNoBase 0 4 0x1000).defaultSeg rexW))
          (user64.memOffset rexW (Instr.movRm64Sreg rexW 1 (.mem (.sibNoBase 0 4 0x1000))).size (.sibNoBase 0 4 0x1000)) 2 .write
        = .ok 0x1000
      ∧ user64.hitsText (user64.linear (user64.segOf rexW ((MemForm.sibNoBase 0 4 0x1000).defaultSeg rexW))
          (user64.memOffset rexW (Instr.movRm64Sreg rexW 1 (.mem (.sibNoBase 0 4 0x1000))).size (.sibNoBase 0 4 0x1000))) 2 = false :=
  ⟨by decide, by decide, by decide, rfl, by decide⟩
theorem witness_BadSegmentRegister_lock :
    (pre [.lock]).lock = true
      ∧ Instr.movSregRm16 (pre [.lock]) 3 (.reg 0) ∈ [.movRm16Sreg (pre [.lock]) 3 (.reg 0),
        .movRm64Sreg (pre [.lock]) 3 (.reg 0), .movSregRm16 (pre [.lock]) 3 (.reg 0), .movSregRm64 (pre [.lock]) 3 (.reg 0)] := by
  decide
theorem witness_BadSegmentRegister_reads_cs :
    bare.lock = false ∧ Instr.movRm16Sreg bare 1 (.reg 0) ∈ [.movRm16Sreg bare 1 (.reg 0), .movRm64Sreg bare 1 (.reg 0)] := by
  decide
theorem witness_BadSegmentRegister :
    ((7 : BitVec 3) = 1 ∨ (7 : BitVec 3) = 6 ∨ (7 : BitVec 3) = 7) ∧ ((6 : BitVec 3) = 6 ∨ (6 : BitVec 3) = 7) := by decide

theorem witness_SegmentLoadReal :
    bare.lock = false ∧ real16.mode = .real
      ∧ selectorSource (setRegs real16 [(0, 0x1FFFF)]) bare (Instr.movSregRm16 bare 2 (.reg 0)).size (.reg 0) 0xFFFF
      ∧ (setRegs real16 [(0, 0x1FFFF)]).intShadow = false :=
  ⟨by decide, by decide, show (0xFFFF : BitVec 16) = _ by decide, by decide⟩
/-- A selector in memory, in V86. -/
theorem witness_SegmentLoadReal_memory :
    v86.mode = .v86
      ∧ selectorSource (setMem v86 [(0x1FFFF, 0x12)]) bare (Instr.movSregRm16 bare 0 (.mem (.abs16 0xFFFE))).size
          (.mem (.abs16 0xFFFE)) 0x1200 :=
  ⟨by decide, 0x1FFFE, rfl, show ∀ k, k < 2 → _ = _ by decide⟩
theorem witness_SegmentLoadData :
    let s := setRegs user32 [(0, 0x33)]
    s.mode = .prot ∧ selectorSource s bare (Instr.movSregRm16 bare 3 (.reg 0)).size (.reg 0) 0x33 ∧ 4 ≤ (0x33 : BitVec 16).toNat
      ∧ s.descFetch 0x33 = .desc (dataSeg 0 0x100000 0xFFFF 3).hidden
      ∧ (dataSeg 0 0x100000 0xFFFF 3).hidden.kind = .data
      ∧ (match s.par.dataSegPrivCheck with
        | .both => (0x33 : BitVec 16).toNat % 4 ≤ (3 : BitVec 2).toNat ∨ s.cpl.toNat ≤ (3 : BitVec 2).toNat
        | .either => (0x33 : BitVec 16).toNat % 4 ≤ (3 : BitVec 2).toNat ∧ s.cpl.toNat ≤ (3 : BitVec 2).toNat)
      ∧ (dataSeg 0 0x100000 0xFFFF 3).hidden.present = true :=
  ⟨by decide, show (0x33 : BitVec 16) = _ by decide, by decide, by decide, by decide,
    show _ ≤ _ ∨ _ ≤ _ by decide, by decide⟩
theorem witness_SegmentLoadDataFaults_fetch :
    selectorSource (setRegs user32 [(0, 4)]) bare (Instr.movSregRm16 bare 3 (.reg 0)).size (.reg 0) 4 ∧ 4 ≤ (4 : BitVec 16).toNat
      ∧ (setRegs user32 [(0, 4)]).descFetch 4 = .outsideLimit
      ∧ (setRegs user32 [(0, 0x63)]).descFetch 0x63 = .nonCanonicalTable :=
  ⟨show (4 : BitVec 16) = _ by decide, by decide, by decide, by decide⟩
/-- Execute-only code; a writable segment of level 0 from level 3; one that is not present. -/
theorem witness_SegmentLoadDataFaults_desc :
    user32.descFetch 0x4B = .desc { (codeSeg 0 0xFFFFFFFF 3).hidden with readable := false }
      ∧ user32.descFetch 0x13 = .desc (dataSeg 0 0 0xFFFFFFFF 0).hidden
      ∧ (¬ ((0x13 : BitVec 16).toNat % 4 ≤ (0 : BitVec 2).toNat ∨ user32.cpl.toNat ≤ (0 : BitVec 2).toNat))
      ∧ user32.par.dataSegPrivCheck = .both
      ∧ user32.descFetch 0x43 = .desc { (dataSeg 0 0 0xFFFF 3).hidden with present := false }
      ∧ ((0x43 : BitVec 16).toNat % 4 ≤ (3 : BitVec 2).toNat ∨ user32.cpl.toNat ≤ (3 : BitVec 2).toNat) := by decide
theorem witness_SegmentLoadNull :
    selectorSource (setRegs user64 [(0, 3)]) rexW (Instr.movSregRm64 rexW 4 (.reg 0)).size (.reg 0) 3 ∧ (3 : BitVec 16).toNat < 4
      ∧ user64.mode = .long64 :=
  ⟨show (3 : BitVec 16) = _ by decide, by decide, by decide⟩
theorem witness_StackSegmentLoad :
    selectorSource (setRegs user32 [(0, 0x33)]) bare (Instr.movSregRm16 bare 2 (.reg 0)).size (.reg 0) 0x33
      ∧ (0x33 : BitVec 16).toNat % 4 = user32.cpl.toNat ∧ 4 ≤ (0x33 : BitVec 16).toNat
      ∧ user32.descFetch 0x33 = .desc (dataSeg 0 0x100000 0xFFFF 3).hidden
      ∧ (dataSeg 0 0x100000 0xFFFF 3).hidden.dpl = user32.cpl ∧ (dataSeg 0 0x100000 0xFFFF 3).hidden.writable = true :=
  ⟨show (0x33 : BitVec 16) = _ by decide, by decide, by decide, by decide, by decide, by decide⟩
theorem witness_StackSegmentLoad_null :
    selectorSource kernel64 bare (Instr.movSregRm16 bare 2 (.reg 0)).size (.reg 0) 0
      ∧ (0 : BitVec 16).toNat % 4 = kernel64.cpl.toNat ∧ kernel64.mode = .long64 ∧ (0 : BitVec 16).toNat < 4 ∧ kernel64.cpl ≠ 3 :=
  ⟨show (0 : BitVec 16) = _ by decide, by decide, by decide, by decide, by decide⟩
theorem witness_StackSegmentFaults_null :
    ((3 : BitVec 16).toNat < 4 ∧ user64.cpl = 3) ∧ ((1 : BitVec 16).toNat < 4 ∧ (1 : BitVec 16).toNat ≠ kernel64.cpl.toNat)
      ∧ selectorSource (setRegs kernel64 [(0, 1)]) bare (Instr.movSregRm16 bare 2 (.reg 0)).size (.reg 0) 1 :=
  ⟨by decide, by decide, show (1 : BitVec 16) = _ by decide⟩
theorem witness_StackSegmentFaults_fetch :
    4 ≤ (0x63 : BitVec 16).toNat ∧ user32.descFetch 0x63 = .nonCanonicalTable ∧ user32.descFetch 4 = .outsideLimit := by decide
theorem witness_StackSegmentFaults_desc :
    user32.descFetch 0x23 = .desc (codeSeg 0 0xFFFFFFFF 3).hidden
      ∧ user32.descFetch 0x43 = .desc { (dataSeg 0 0 0xFFFF 3).hidden with present := false }
      ∧ ((0x43 : BitVec 16).toNat % 4 = user32.cpl.toNat ∧ (dataSeg 0 0 0xFFFF 3).hidden.kind = .data
        ∧ (dataSeg 0 0 0xFFFF 3).hidden.writable = true ∧ (dataSeg 0 0 0xFFFF 3).hidden.dpl = user32.cpl) := by decide

theorem witness_ReadControl :
    bare.regNum 4 = 4 ∧ bare.lock = false ∧ kernel32.mode ≠ .v86 ∧ kernel32.cpl = 0 ∧ kernel32.noCr4 = false := by decide
theorem witness_ReadControl_cr8 :
    (withRex false true false false).lock = false ∧ kernel64.mode ≠ .v86 ∧ kernel64.cpl = 0
      ∧ (withRex false true false false).regNum 1 ≠ 4 := by decide
theorem witness_ControlFaults_ud :
    bare.lock = false ∧ user32.mode ≠ .v86 ∧ (withRex false true false false).regNum 7 ∈ [(1 : BitVec 4), 5, 6, 7, 9, 10, 11, 12, 13, 14, 15] := by
  decide
theorem witness_ControlFaults_level :
    (withRex false true false false).regNum 0 ∈ [(0 : BitVec 4), 2, 3, 4, 8] ∧ user32.cpl ≠ 0 ∧ user32.mode ≠ .v86 := by decide
/-- A processor without CR4. -/
def earlier : State := { kernel32 with par := { plainPar with procFamily := .earlierIA32, hasCr4 := false } }
theorem witness_ControlFaults_no_cr4 : bare.regNum 4 = 4 ∧ earlier.cpl = 0 ∧ earlier.noCr4 = true ∧ earlier.mode ≠ .v86 := by decide
/-- CR4 on such a processor at another privilege level, where the two clauses meet. -/
theorem witness_ControlFaults_no_cr4_level :
    let s := { earlier with cpl := 3 }
    bare.regNum 4 ∈ [(0 : BitVec 4), 2, 3, 4, 8] ∧ s.cpl ≠ 0 ∧ s.noCr4 = true ∧ s.mode ≠ .v86 := by decide

theorem witness_WriteControl0 :
    let v : Word := 0xE0000011
    bare.regNum 0 = 0 ∧ bare.lock = false ∧ kernel32.mode ≠ .v86 ∧ kernel32.cpl = 0
      ∧ (v = (((setRegs kernel32 [(0, v)]).reg (bare.rmNum 0)).setWidth 32).setWidth 64)
      ∧ ¬ (v.getLsbD 31 = true ∧ v.getLsbD 0 = false) ∧ ¬ (v.getLsbD 30 = false ∧ v.getLsbD 29 = true)
      ∧ kernel32.mode ≠ .long64 ∧ (setRegs kernel32 [(0, v)]).pdptCheck 0 v = .ok
      ∧ v.getLsbD 0 = kernel32.cr0.getLsbD 0 ∧ kernel32.mode ≠ .compat := by decide
theorem witness_WriteControl0_long64 :
    let v : Word := 0x180000011
    kernel64.mode = .long64 ∧ ¬ (v.getLsbD 31 = true ∧ v.getLsbD 0 = false) ∧ ¬ (v.getLsbD 30 = false ∧ v.getLsbD 29 = true)
      ∧ v.getLsbD 31 = true ∧ kernel64.par.cr0HiFault = false ∧ v.getLsbD 0 = kernel64.cr0.getLsbD 0
      ∧ v = (setRegs kernel64 [(0, v)]).reg (bare.rmNum 0) := by decide
theorem witness_WriteControl0_compat :
    let v : Word := 0x80000001
    compat32.mode = .compat ∧ v.getLsbD 0 = compat32.cr0.getLsbD 0 ∧ v.getLsbD 31 = compat32.cr0.getLsbD 31
      ∧ compat32.cpl = 0 := by decide
theorem witness_WriteControl0Stops_values :
    ((0x80000010 : Word).getLsbD 31 = true ∧ (0x80000010 : Word).getLsbD 0 = false)
      ∧ ((0x20000011 : Word).getLsbD 30 = false ∧ (0x20000011 : Word).getLsbD 29 = true)
      ∧ (kernel64.mode = .long64 ∧ kernel64.cr0.getLsbD 31 = true ∧ (0x11 : Word).getLsbD 31 = false) := by decide
theorem witness_WriteControl0Stops_pcide :
    let s := { compat32 with cr4 := 0x20020 }
    s.mode = .compat ∧ s.cr0.getLsbD 31 = true ∧ (0x11 : Word).getLsbD 31 = false ∧ s.cr4.getLsbD 17 = true := by decide
theorem witness_WriteControl0Stops_high :
    let s := { kernel64 with par := { plainPar with cr0HiFault := true } }
    s.mode = .long64 ∧ s.par.cr0HiFault = true ∧ (0x180000011 : Word).extractLsb' 32 32 ≠ 0 := by decide
theorem witness_WriteControl0Stops_pdpt :
    let s := { kernel32 with cr4 := 0x20, par := { plainPar with pdptTable := [({ cr := 0, value := 0x80000011 }, .reservedBitsSet)] } }
    s.mode = .prot ∧ s.pdptCheck 0 0x80000011 = .reservedBitsSet := by decide
theorem witness_WriteControl0Stops_mode :
    ((0x10 : Word).getLsbD 0 ≠ kernel32.cr0.getLsbD 0 ∧ (0x10 : Word).getLsbD 31 = false ∧ kernel32.pdptCheck 0 0x10 = .ok)
      ∧ (compat32.mode = .compat ∧ (0x11 : Word).getLsbD 31 ≠ compat32.cr0.getLsbD 31 ∧ compat32.cr4.getLsbD 17 = false) := by decide
theorem witness_WriteControl2 : bare.regNum 2 = 2 ∧ bare.lock = false ∧ real16.mode ≠ .v86 ∧ real16.cpl = 0 := by decide
theorem witness_WriteControl3_faults :
    (0x8000000000000000 : Word).getLsbD 63 = true ∧ kernel64.par.cr3Rsvd.getLsbD 63 = true
      ∧ ¬ ((63 : Nat) = 63 ∧ kernel64.cr4.getLsbD 17 = true) ∧ kernel64.mode = .long64 ∧ bare.regNum 3 = 3 := by decide
theorem witness_WriteControl3_pdpt :
    let s := { kernel32 with cr0 := 0x80000011, cr4 := 0x20, par := { plainPar with pdptTable := [({ cr := 3, value := 0x1000 }, .reservedBitsSet)] } }
    s.mode = .prot ∧ s.pdptCheck 3 0x1000 = .reservedBitsSet := by decide
theorem witness_WriteControl3 :
    kernel32.mode = .prot ∧ kernel32.pdptCheck 3 0x101000 = .ok ∧ bare.regNum 3 = 3 ∧ kernel32.cpl = 0 := by decide
theorem witness_WriteControl4_faults :
    ((0x80000000 : Word) &&& kernel32.par.cr4Rsvd ≠ 0) ∧ (kernel32.mode = .prot ∧ (0x20000 : Word).getLsbD 17 = true)
      ∧ (kernel64.mode = .long64 ∧ kernel64.cr4.getLsbD 5 = true ∧ (0 : Word).getLsbD 5 = false) ∧ kernel32.noCr4 = false := by decide
theorem witness_WriteControl4_pcid :
    let s := { kernel64 with cr3 := 0x101005 }
    s.mode = .long64 ∧ s.cr4.getLsbD 17 = false ∧ (0x20020 : Word).getLsbD 17 = true ∧ s.cr3.extractLsb' 0 12 ≠ 0 := by decide
theorem witness_WriteControl4_pdpt :
    let s := { kernel32 with cr0 := 0x80000011, par := { plainPar with pdptTable := [({ cr := 4, value := 0x20 }, .reservedBitsSet)] } }
    s.mode = .prot ∧ s.pdptCheck 4 0x20 = .reservedBitsSet := by decide
theorem witness_WriteControl4 :
    let v : Word := 0x20028
    v &&& kernel64.par.cr4Rsvd = 0 ∧ kernel64.mode = .long64 ∧ kernel64.cr3.extractLsb' 0 12 = 0 ∧ v.getLsbD 5 = true
      ∧ bare.regNum 4 = 4 ∧ kernel64.cpl = 0 ∧ kernel64.noCr4 = false := by decide
theorem witness_WriteControl8 :
    ((0x10 : Word) &&& kernel64.par.cr8Rsvd ≠ 0) ∧ ((0xF : Word) &&& kernel64.par.cr8Rsvd = 0) ∧ kernel64.cpl = 0
      ∧ kernel64.mode ≠ .v86 ∧ (withRex false true false false).lock = false := by decide

theorem witness_ReadDebug :
    ((5 : BitVec 3), kernel32.dr7) ∈ [((0 : BitVec 3), kernel32.dr0), (1, kernel32.dr1), (2, kernel32.dr2), (3, kernel32.dr3),
        (4, kernel32.dr6), (5, kernel32.dr7), (6, kernel32.dr6), (7, kernel32.dr7)]
      ∧ bare.lock = false ∧ kernel32.mode ≠ .v86 ∧ bare.rexR = false ∧ kernel32.cr4.getLsbD 3 = false ∧ kernel32.cpl = 0
      ∧ kernel32.dr7.getLsbD 13 = false := by decide
theorem witness_WriteDebug_high :
    (6 : Nat) = (if (4 : BitVec 3) = 4 then 6 else if (4 : BitVec 3) = 5 then 7 else (4 : BitVec 3).toNat)
      ∧ (6 ≤ 6 ∧ (0x100000000 : Word).extractLsb' 32 32 ≠ 0) ∧ kernel64.cr4.getLsbD 3 = false := by decide
theorem witness_WriteDebug :
    (3 : Nat) = (if (3 : BitVec 3) = 4 then 6 else if (3 : BitVec 3) = 5 then 7 else (3 : BitVec 3).toNat)
      ∧ ¬ (6 ≤ 3 ∧ (0xFFFFFFFFFFFFFFFF : Word).extractLsb' 32 32 ≠ 0) ∧ kernel64.dr7.getLsbD 13 = false ∧ kernel64.cpl = 0
      ∧ kernel64.mode ≠ .v86 ∧ bare.rexR = false := by decide
theorem witness_DebugFaults_ud :
    (withRex false true false false).rexR = true
      ∧ (let s := { kernel32 with cr4 := 8 }
        ((4 : BitVec 3) = 4 ∨ (4 : BitVec 3) = 5) ∧ s.cr4.getLsbD 3 = true ∧ s.noCr4 = false) := by decide
theorem witness_DebugFaults_level : bare.rexR = false ∧ user32.cr4.getLsbD 3 = false ∧ user32.cpl ≠ 0 ∧ user32.mode ≠ .v86 := by
  decide
theorem witness_DebugFaults_detect :
    let s := { kernel32 with dr7 := 0x2400 }
    bare.rexR = false ∧ s.cr4.getLsbD 3 = false ∧ s.cpl = 0 ∧ s.dr7.getLsbD 13 = true := by decide

theorem witness_LockOnMoves :
    (Instr.movSregRm16 (pre [.lock]) 1 (.reg 0)).prefixes.lock = true ∧ (Instr.movSregRm16 (pre [.lock]) 1 (.reg 0)).isMove = true := by
  decide
theorem witness_SystemMovesUnderLockAndV86 :
    (Instr.movR32Dr (pre [.lock]) 3 0 0).isMove = false ∧ (Instr.movR32Dr (pre [.lock]) 3 0 0).prefixes.lock = true
      ∧ kernel32.mode ≠ .v86 ∧ v86.mode = .v86 ∧ (Instr.movR32Cr bare 3 1 0).isMove = false
      ∧ (Instr.movR32Cr bare 3 1 0).prefixes.lock = false := by decide
theorem witness_ExceptionsArePrecise : ∃ f, exec (.movRm8R8 (pre [.lock]) 0 (.reg 0)) user32 = .fault f := ⟨_, rfl⟩
theorem witness_ExceptionsByForm :
    ∃ u, exec (.movMoffs8Al bare (.o16 0xFFFF)) { real16 with seg := { real16.seg with ds := dataSeg 0 0 0 0 } }
        = .fault (.exception (.gp none) u) ∧ real16.mode = .real := ⟨_, rfl, by decide⟩
theorem witness_ExceptionsByForm_control :
    ∃ u, exec (.movR32Dr bare 3 0 0) { kernel32 with dr7 := 0x2400 } = .fault (.exception .db u)
      ∧ (Instr.movR32Dr bare 3 0 0).isMove = false := ⟨_, rfl, by decide⟩
/-- A descriptor not present, and a NULL SS. -/
theorem witness_ExceptionsByForm_load :
    (∃ u, exec (.movSregRm16 bare 3 (.reg 0)) (setRegs user32 [(0, 0x43)]) = .fault (.exception (.np 0x40) u))
      ∧ ∃ u, exec (.movSregRm16 bare 2 (.reg 0)) user32 = .fault (.exception (.gp (some 0)) u) := ⟨⟨_, rfl⟩, _, rfl⟩
/-- A MOV from CR0 while DR7.GD = 1, from level 3. -/
theorem witness_ExceptionsByForm_cr :
    ∃ u, exec (.movR32Cr bare 3 0 0) { user32 with dr7 := 0x2400 } = .fault (.exception (.gp (some 0)) u) := ⟨_, rfl⟩

theorem witness_StepRunsDecoded :
    (textAt user32 [0x88, 0xDC, 0x90]).atEnd = false ∧ (textAt user32 [0x88, 0xDC, 0x90]).interruptTaken = false
      ∧ (textAt user32 [0x88, 0xDC, 0x90]).fetch = some [0x88, 0xDC, 0x90]
      ∧ decode (textAt user32 [0x88, 0xDC, 0x90]).ctx [0x88, 0xDC, 0x90] = .ok (.movRm8R8 bare 3 (.reg 4), [0x90]) := by decide
theorem witness_StepRunsTheText :
    let s := { user32 with pc := 0x1001, text := { start := 0x1000, bytes := [0x90, 0x88, 0xDC, 0x90] }, offers := [true], intShadow := true }
    s.text.bytes = [0x90] ++ encode (.movRm8R8 bare 3 (.reg 4)) ++ [0x90]
      ∧ (s.pcWrap (s.pc - s.text.start)).toNat = [(0x90 : Byte)].length ∧ (Instr.movRm8R8 bare 3 (.reg 4)).wf s.ctx = true
      ∧ (s.offers.head? ≠ some true ∨ s.intShadow = true) := by decide
theorem witness_Boundaries :
    (textAt { user32 with offers := [true] } [0x90]).atEnd = false ∧ (textAt { user32 with offers := [true] } [0x90]).offers.head? = some true
      ∧ (user32.pcWrap (State.reset.pc - State.reset.text.start)).toNat = State.reset.text.bytes.length := by decide
/-- pc outside the text, not at its end, and an interrupt offered. -/
theorem witness_Boundaries_outside :
    let s := { textAt user32 [0x90] with pc := 0x900002, offers := [true] }
    s.atEnd = false ∧ s.fetch = none ∧ s.offers.head? = some true ∧ s.intShadow = false := by decide
/-- pc at the end of the text and an interrupt offered. -/
theorem witness_Boundaries_end :
    let s := textAt { user32 with offers := [true] } []
    s.atEnd = true ∧ (s.pcWrap (s.pc - s.text.start)).toNat = s.text.bytes.length ∧ s.offers.head? = some true
      ∧ s.intShadow = false := by decide

/-- A store of one byte, from a legal state. -/
def stores : Instr := .movMoffs8Al bare (.o32 0x1000)
theorem witness_ProgramCounter :
    exec stores user32 = .next (after (exec stores user32)) ∧ ∃ e t, exec (.movR32Cr bare 3 0 0) user32 = .fault (.exception e t) :=
  ⟨next_after _ (by decide), _, _, rfl⟩
theorem witness_MoveFrame :
    stores.isMove = true ∧ exec stores user32 = .next (after (exec stores user32))
      ∧ ∀ p g rm, stores ≠ .movSregRm16 p g rm ∧ stores ≠ .movSregRm64 p g rm :=
  ⟨by decide, next_after _ (by decide), fun _ _ _ => ⟨(fun h => by cases h), (fun h => by cases h)⟩⟩
/-- The byte above the one stored. -/
theorem witness_MemoryFrame :
    Memory.wf user32.mem ∧ exec stores user32 = .next (after (exec stores user32))
      ∧ ∀ d phys k, user32.dataAccess stores = some d → d.acc = .write →
        user32.access d.seg d.off d.n .write = .ok phys → k < d.n → 0x1001 ≠ user32.byteAddr phys k := by
  refine ⟨by decide, next_after _ (by decide), fun d phys k hd _ hp hk => ?_⟩
  have h : user32.dataAccess stores = some { seg := .ds, off := 0x1000, n := 1, acc := .write } := rfl
  cases h.symm.trans hd
  have h : user32.access .ds 0x1000 1 .write = .ok 0x1000 := rfl
  cases h.symm.trans hp
  have hk : k < 1 := hk
  obtain rfl : k = 0 := by omega
  decide
theorem witness_ShadowOnlyAfterStackLoad :
    exec (.movSregRm16 bare 2 (.reg 0)) real16 = .next (after (exec (.movSregRm16 bare 2 (.reg 0)) real16))
      ∧ (after (exec (.movSregRm16 bare 2 (.reg 0)) real16)).intShadow = true :=
  ⟨next_after _ (by decide), by decide⟩
/-- One step that stores from a legal state at level 3 outside LONG64: for StepKeepsMode, NarrowRegisters, OnlyLevel0,
StepKeepsMemoryForm and StepKeepsLegal. -/
theorem witness_steps :
    ∃ t, run user32 [0xA2, 0, 0x10, 0, 0] = .next t ∧ user32.mode ≠ .long64 ∧ user32.cpl ≠ 0
      ∧ Memory.wf (textAt user32 [0xA2, 0, 0x10, 0, 0]).mem ∧ (textAt user32 [0xA2, 0, 0x10, 0, 0]).legal = true := by
  obtain ⟨t, h, -⟩ := next_elim (run user32 [0xA2, 0, 0x10, 0, 0]) (fun _ => true) (by decide)
  exact ⟨t, h, by decide, by decide, by decide, by decide⟩
/-- Legal states in every mode. -/
theorem witness_StepKeepsLegal :
    real16.legal = true ∧ v86.legal = true ∧ kernel32.legal = true ∧ compat32.legal = true ∧ kernel64.legal = true := by decide
/-- No LONG64 on EARLIER_IA32 (R6). -/
theorem test_legal_family :
    { kernel64 with par := { plainPar with procFamily := .earlierIA32 } }.legal = false ∧ earlier.legal = true := by decide
/-- The privilege level is bits 1:0 of the selector of CS (R36). -/
theorem test_legal_cpl : { user32 with cpl := 0 }.legal = false ∧ { kernel64 with cpl := 3 }.legal = false := by decide
/-- PCIDE may be a reserved bit of CR4 only where the processor does not have it (R9). -/
theorem test_legal_pcide :
    { kernel32 with par := { plainPar with hasPcide := false, cr4Rsvd := 0xFFFFFFFFFFFFFFC7 } }.legal = true
      ∧ { kernel32 with par := { plainPar with cr4Rsvd := 0xFFFFFFFFFFFFFFC7 } }.legal = false := by decide

end Sys2Proof.Tests
end

section
/-! SUPPORT. The system part of the state, and the one lemma on what a completed instruction can do to it: keep it, or write
one control register or one debug register. -/

namespace Sys2Proof.Machine

/-! ## The system part of the state -/

/-- What no MOV-Move instruction changes of the machine (R165, R222): the mode, CS and the privilege level, the control and
debug registers and the invalidation events, and the program text and the parameters. -/
structure System where
  mode : Mode
  cpl : BitVec 2
  cs : SegReg
  csD : CodeSize
  cr0 : Word
  cr2 : Word
  cr3 : Word
  cr4 : Word
  cr8 : Word
  dr0 : Word
  dr1 : Word
  dr2 : Word
  dr3 : Word
  dr6 : Word
  dr7 : Word
  tlb : List TlbEvent
  text : Text
  par : Params

/-- The system part of a state. -/
def State.system (s : State) : System :=
  { mode := s.mode, cpl := s.cpl, cs := s.seg.cs, csD := s.csD, cr0 := s.cr0, cr2 := s.cr2, cr3 := s.cr3, cr4 := s.cr4,
    cr8 := s.cr8, dr0 := s.dr0, dr1 := s.dr1, dr2 := s.dr2, dr3 := s.dr3, dr6 := s.dr6, dr7 := s.dr7, tlb := s.tlb,
    text := s.text, par := s.par }

@[simp] theorem State.system_regWrite (s : State) (w : Width) (i : BitVec 4) (rex : Bool) (v : Word) :
    (s.regWrite w i rex v).system = s.system := by
  simp [State.system]

@[simp] theorem State.system_selToReg32 (s : State) (i : BitVec 4) (rex : Bool) (sel : BitVec 16) :
    (s.selToReg32 i rex sel).system = s.system := by
  simp [State.system]

@[simp] theorem State.system_complete (s : State) (len : Nat) : (s.complete len).system = s.system := rfl

@[simp] theorem State.system_completeLoad (s : State) (r : Sreg) (len : Nat) :
    (s.completeLoad r len).system = s.system := by
  simp [State.system]

@[simp] theorem State.system_completeUndef (s : State) (len : Nat) : (s.completeUndef len).system = s.system := rfl

@[simp] theorem State.system_begin (s : State) : s.begin.system = s.system := rfl

/-! ## Operations that keep it -/

theorem State.storeOp_system {s t : State} {r : Sreg} {off : Word} {n : Nat} {v : Word}
    (h : s.storeOp r off n v = .ok t) : t.system = s.system := by
  obtain ⟨_, _, _, rfl⟩ := State.storeOp_eq_ok h
  rfl

theorem State.writeRm_system {s t : State} {p : Prefixes} {len : Nat} {w : Width} {rm : Rm} {v : Word}
    (h : s.writeRm p len w rm v = .ok t) : t.system = s.system := by
  rcases State.writeRm_eq_ok h with ⟨r, -, rfl⟩ | ⟨m, -, hstore⟩
  · exact s.system_regWrite ..
  · exact State.storeOp_system hstore

theorem State.writeSelector_system {s t : State} {p : Prefixes} {len : Nat} {rm : Rm} {sel : BitVec 16}
    (h : s.writeSelector p len rm sel = .ok t) : t.system = s.system := by
  unfold State.writeSelector at h
  split at h
  · exact State.writeRm_system h
  · split at h
    · cases h
      exact s.system_selToReg32 ..
    · exact State.writeRm_system h

/-- A segment register other than CS is no part of the system state. -/
theorem State.loadSeg_system {s t : State} {r : Sreg} {sel : BitVec 16} (hr : r ≠ .cs) (h : s.loadSeg r sel = .ok t) :
    t.system = s.system := by
  obtain ⟨d, n, rfl⟩ := State.loadSeg_eq_ok h
  cases r with
  | cs => exact absurd rfl hr
  | es | ss | ds | fs | gs => rfl

/-! ## Instructions that keep it -/

theorem moveStep_system {p : Prefixes} {len : Nat} {s t : State} {e : Except Stop State}
    (he : ∀ u, e = .ok u → u.system = s.system) (h : moveStep p len s e = .next t) : t.system = s.system := by
  obtain ⟨-, u, hu, rfl⟩ := moveStep_eq_next.1 h
  exact he u hu

/-- A value that was read, written to a general register: the effect of the loads of 40_mov_general.md. -/
theorem map_regWrite_system {s u : State} {r : Except Stop Word} {w : Width} {i : BitVec 4} {rex : Bool}
    (h : (r.map fun v => s.regWrite w i rex v) = .ok u) : u.system = s.system := by
  obtain ⟨v, -, rfl⟩ := except_map_eq_ok.1 h
  exact s.system_regWrite ..

section
variable {w : Width} {p : Prefixes} {len : Nat} {s t : State}

theorem moveToRm_system {reg : BitVec 3} {rm : Rm} (h : moveToRm w p len reg rm s = .next t) : t.system = s.system :=
  moveStep_system (fun _ => State.writeRm_system) h

theorem moveFromRm_system {reg : BitVec 3} {rm : Rm} (h : moveFromRm w p len reg rm s = .next t) :
    t.system = s.system :=
  moveStep_system (fun _ => map_regWrite_system) h

theorem moveFromMoffs_system {off : Moffs} (h : moveFromMoffs w p len off s = .next t) : t.system = s.system :=
  moveStep_system (fun _ => map_regWrite_system) h

theorem moveToMoffs_system {off : Moffs} (h : moveToMoffs w p len off s = .next t) : t.system = s.system :=
  moveStep_system (fun _ => State.storeOp_system) h

theorem moveImmToReg_system {r : BitVec 3} {imm : Word} (h : moveImmToReg w p len r imm s = .next t) :
    t.system = s.system := by
  refine moveStep_system (fun u hu => ?_) h
  cases hu
  exact s.system_regWrite ..

theorem moveImmToRm_system {rm : Rm} {imm : Word} (h : moveImmToRm w p len rm imm s = .next t) :
    t.system = s.system :=
  moveStep_system (fun _ => State.writeRm_system) h

theorem moveFromSreg_system {sreg : BitVec 3} {rm : Rm} (h : moveFromSreg p len sreg rm s = .next t) :
    t.system = s.system := by
  unfold moveFromSreg at h
  split at h
  · cases h
  · exact moveStep_system (fun _ => State.writeSelector_system) h

/-- A load never writes CS: its number raises #UD (R220). -/
theorem moveToSreg_system {sreg : BitVec 3} {rm : Rm} (h : moveToSreg p len sreg rm s = .next t) :
    t.system = s.system := by
  rcases moveToSreg_cases s p len sreg rm with hud | ⟨st, m, -, -, hstop⟩ | ⟨r, sel, -, hr, -, hload⟩
  · cases hud.symm.trans h
  · cases settle_eq_next.1 (hstop.symm.trans h)
  · obtain ⟨u, hu, rfl⟩ := except_map_eq_ok.1 (settle_eq_next.1 (hload.symm.trans h))
    exact (u.system_completeLoad r len).trans (State.loadSeg_system hr hu)

theorem moveFromCr_system {c : BitVec 4} {rm : BitVec 3} (h : moveFromCr w p len c rm s = .next t) :
    t.system = s.system := by
  obtain ⟨-, -, rfl⟩ := moveFromCr_eq_next.1 h
  simp

theorem moveFromDr_system {d rm : BitVec 3} (h : moveFromDr w p len d rm s = .next t) : t.system = s.system := by
  obtain ⟨-, rfl⟩ := moveFromDr_eq_next.1 h
  simp

end

/-! ## What an instruction can do to it -/

/-- How a completed instruction leaves the system state: as before, or with one control register (R240 to R246) or one debug
register (R275) written behind the common checks (R238, R277). -/
inductive SystemStep (s t : State) : Prop where
  | same (ht : t.system = s.system)
  | controlWrite (p : Prefixes) (c : BitVec 4) (v : Word) (u : State) (hc : s.crFault p c = none)
      (h4 : (decide (c = 4) && s.noCr4) = false) (hu : s.crWrite c v = .ok u) (ht : t.system = u.system)
  | debugWrite (p : Prefixes) (d : BitVec 3) (v : Word) (u : State) (hd : s.drFault p d = none)
      (hu : s.drWrite (drIndex d) v = .ok u) (ht : t.system = u.system)

theorem moveToCr_systemStep {w : Width} {p : Prefixes} {len : Nat} {c : BitVec 4} {rm : BitVec 3} {s t : State}
    (h : moveToCr w p len c rm s = .next t) : SystemStep s t := by
  obtain ⟨hc, h4, u, hu, rfl⟩ := moveToCr_eq_next.1 h
  exact .controlWrite p c _ u hc h4 hu rfl

theorem moveToDr_systemStep {w : Width} {p : Prefixes} {len : Nat} {d rm : BitVec 3} {s t : State}
    (h : moveToDr w p len d rm s = .next t) : SystemStep s t := by
  obtain ⟨hd, u, hu, rfl⟩ := moveToDr_eq_next.1 h
  exact .debugWrite p d _ u hd hu rfl

/-- Every instruction that completes, by the shared operation its row calls. -/
theorem exec_systemStep {i : Instr} {s t : State} (h : exec i s = .next t) : SystemStep s t := by
  cases i with
  | movRm8R8 | movRm8R8Rex | movRm16R16 | movRm32R32 | movRm64R64 => exact .same (moveToRm_system h)
  | movR8Rm8 | movR8Rm8Rex | movR16Rm16 | movR32Rm32 | movR64Rm64 => exact .same (moveFromRm_system h)
  | movRm16Sreg | movRm64Sreg => exact .same (moveFromSreg_system h)
  | movSregRm16 | movSregRm64 => exact .same (moveToSreg_system h)
  | movAlMoffs8 | movAlMoffs8RexW | movAxMoffs16 | movEaxMoffs32 | movRaxMoffs64 => exact .same (moveFromMoffs_system h)
  | movMoffs8Al | movMoffs8AlRexW | movMoffs16Ax | movMoffs32Eax | movMoffs64Rax => exact .same (moveToMoffs_system h)
  | movR8Imm8 | movR8Imm8Rex | movR16Imm16 | movR32Imm32 | movR64Imm64 => exact .same (moveImmToReg_system h)
  | movRm8Imm8 | movRm8Imm8Rex | movRm16Imm16 | movRm32Imm32 | movRm64Imm32 => exact .same (moveImmToRm_system h)
  | movR32Cr | movR64Cr | movR64Cr8 => exact .same (moveFromCr_system h)
  | movCrR32 | movCrR64 | movCr8R64 => exact moveToCr_systemStep h
  | movR32Dr | movR64Dr => exact .same (moveFromDr_system h)
  | movDrR32 | movDrR64 => exact moveToDr_systemStep h

end Sys2Proof.Machine
end

section
/-! PROOF. Every step from a legal state leads to a legal state (00_scope.md R6, R9; 10_state.md R57): a legal state is a matter
of the system state alone, and each write of a control or debug register that answers keeps its conditions. -/

namespace Sys2Proof.Machine

/-! ## Legal states -/

theorem State.legal_iff (s : State) :
    s.legal = true ↔
      paramsOk s.par = true ∧ s.modeOk = true ∧ s.cplOk = true ∧ s.highBitsOk = true ∧ s.cr0Ok = true
        ∧ s.reservedOk = true := by
  simp [State.legal, and_assoc]

theorem State.modeOk_iff (s : State) :
    s.modeOk = true ↔
      (s.mode = .real ↔ cr0PE s.cr0 = false)
        ∧ (s.ia32e = true → cr0PG s.cr0 = true ∧ cr0PE s.cr0 = true ∧ cr4PAE s.cr4 = true
          ∧ s.par.procFamily ≠ .earlierIA32) := by
  unfold State.modeOk
  cases s.ia32e <;> cases cr0PE s.cr0 <;> simp [and_assoc]

theorem State.highBitsOk_iff (s : State) :
    s.highBitsOk = true ↔
      s.dr6.extractLsb' 32 32 = 0 ∧ s.dr7.extractLsb' 32 32 = 0 ∧ s.cr3.getLsbD 63 = false := by
  simp only [State.highBitsOk, Bool.and_eq_true, decide_eq_true_eq, Bool.not_eq_true', and_assoc]

theorem State.reservedOk_iff (s : State) :
    s.reservedOk = true ↔
      s.cr0 &&& s.par.cr0Rsvd = 0 ∧ s.cr3 &&& s.par.cr3Rsvd = 0 ∧ s.cr4 &&& s.par.cr4Rsvd = 0
        ∧ s.cr8 &&& s.par.cr8Rsvd = 0 ∧ (s.noCr4 = true → s.cr4 = 0) := by
  unfold State.reservedOk
  cases s.noCr4 <;> simp [and_assoc]

theorem State.legal_congr {s t : State} (h : t.system = s.system) : t.legal = s.legal := by
  simp only [State.system, System.mk.injEq] at h
  obtain ⟨hmode, hcpl, hcs, -, hcr0, -, hcr3, hcr4, hcr8, -, -, -, -, hdr6, hdr7, -, -, hpar⟩ := h
  simp only [State.legal, State.modeOk, State.cplOk, State.highBitsOk, State.cr0Ok, State.reservedOk, State.ia32e,
    State.noCr4, hmode, hcpl, hcs, hcr0, hcr3, hcr4, hcr8, hdr6, hdr7, hpar]

/-! ## Writes of CR0 -/

/-- The bits of CR0 that R9 keeps out of the reserved ones. -/
theorem paramsOk_cr0Rsvd {q : Params} (h : paramsOk q = true) :
    q.cr0Rsvd.getLsbD 0 = false ∧ q.cr0Rsvd.getLsbD 4 = false ∧ q.cr0Rsvd.getLsbD 29 = false
      ∧ q.cr0Rsvd.getLsbD 30 = false ∧ q.cr0Rsvd.getLsbD 31 = false := by
  simp [paramsOk, cr0PE, cr0ET, cr0NW, cr0CD, cr0PG] at h
  tauto

theorem paramsOk_cr3Rsvd {q : Params} (h : paramsOk q = true) : q.cr3Rsvd.getLsbD 63 = true := by
  simp [paramsOk] at h
  tauto

/-- The stored value of CR0, bit by bit (R241, R242). -/
theorem State.cr0Stored_getLsbD (s : State) (v : Word) {k : Nat} (hk : k < 64) :
    (s.cr0Stored v).getLsbD k =
      ((v.getLsbD k && !s.par.cr0Rsvd.getLsbD k) || (decide (s.par.procFamily = .p4XeonP6) && decide (k = 4))) := by
  have het : (0x10 : Word).getLsbD k = decide (k = 4) := by
    interval_cases k <;> rfl
  unfold State.cr0Stored
  by_cases hfam : s.par.procFamily = .p4XeonP6
  · simp only [hfam, if_true, BitVec.getLsbD_or, BitVec.getLsbD_and, BitVec.getLsbD_not, hk, het, decide_true,
      Bool.true_and]
  · simp [hfam, hk]

theorem State.cr0Stored_bit (s : State) (v : Word) {k : Nat} (hk : k < 64) (h4 : k ≠ 4)
    (hr : s.par.cr0Rsvd.getLsbD k = false) : (s.cr0Stored v).getLsbD k = v.getLsbD k := by
  simp [s.cr0Stored_getLsbD v hk, h4, hr]

section
variable {s : State} {v : Word}

theorem State.cr0PE_cr0Stored (hp : paramsOk s.par = true) : cr0PE (s.cr0Stored v) = cr0PE v := by
  obtain ⟨hPE, -⟩ := paramsOk_cr0Rsvd hp
  exact s.cr0Stored_bit v (by decide) (by decide) hPE

theorem State.cr0PG_cr0Stored (hp : paramsOk s.par = true) : cr0PG (s.cr0Stored v) = cr0PG v := by
  obtain ⟨-, -, -, -, hPG⟩ := paramsOk_cr0Rsvd hp
  exact s.cr0Stored_bit v (by decide) (by decide) hPG

theorem State.cr0Invalid_cr0Stored (hp : paramsOk s.par = true) : cr0Invalid (s.cr0Stored v) = cr0Invalid v := by
  obtain ⟨-, -, hNW, hCD, -⟩ := paramsOk_cr0Rsvd hp
  have hnw : cr0NW (s.cr0Stored v) = cr0NW v := s.cr0Stored_bit v (by decide) (by decide) hNW
  have hcd : cr0CD (s.cr0Stored v) = cr0CD v := s.cr0Stored_bit v (by decide) (by decide) hCD
  simp only [cr0Invalid, cr0PE_cr0Stored hp, cr0PG_cr0Stored hp, hnw, hcd]

/-- Setting ET puts back no reserved bit, since ET is none (R9). -/
theorem State.cr0Stored_reserved (hp : paramsOk s.par = true) : s.cr0Stored v &&& s.par.cr0Rsvd = 0 := by
  obtain ⟨-, hET, -⟩ := paramsOk_cr0Rsvd hp
  apply BitVec.eq_of_getLsbD_eq
  intro k hk
  rw [BitVec.getLsbD_and, s.cr0Stored_getLsbD v hk]
  by_cases h4 : k = 4
  · rw [h4, hET, Bool.and_false]
    rfl
  · simp [h4]

theorem State.cr0ET_cr0Stored (hfam : s.par.procFamily = .p4XeonP6) : cr0ET (s.cr0Stored v) = true := by
  simp [cr0ET, s.cr0Stored_getLsbD v (k := 4) (by decide), hfam]

/-- The checks of R240 that a legal state needs. -/
theorem State.of_cr0Fault_eq_false (h : s.cr0Fault v = false) :
    cr0Invalid v = false ∧ (s.mode = .long64 → cr0PG s.cr0 = true → cr0PG v = true) := by
  simp only [State.cr0Fault, Bool.or_eq_false_iff] at h
  obtain ⟨⟨⟨⟨hvalid, hlong⟩, -⟩, -⟩, -⟩ := h
  exact ⟨hvalid, by simpa using hlong⟩

theorem State.cr0ChangesMode_eq_false :
    s.cr0ChangesMode v = false ↔ cr0PE v = cr0PE s.cr0 ∧ (s.mode = .compat → cr0PG v = cr0PG s.cr0) := by
  simp [State.cr0ChangesMode]

theorem State.writeCr0_eq_ok {t : State} :
    s.writeCr0 v = .ok t ↔
      s.cr0Fault v = false ∧ s.cr0ChangesMode v = false
        ∧ { s with
            cr0 := s.cr0Stored v
            tlb := s.tlb ++ .cr0Write s.cr0 (s.cr0Stored v)
              :: s.flushEvents (decide (cr0PE v ≠ cr0PE s.cr0) || decide (cr0PG v ≠ cr0PG s.cr0)) } = t := by
  unfold State.writeCr0
  cases s.cr0Fault v <;> cases s.cr0ChangesMode v <;> simp

/-- A write of CR0 that is neither a fault nor a change of the mode leaves PG set in IA-32e mode (R240, R248). -/
theorem State.cr0PG_of_ia32e (hm : s.modeOk = true) (hf : s.cr0Fault v = false) (hc : s.cr0ChangesMode v = false)
    (hi : s.ia32e = true) : cr0PG v = true := by
  obtain ⟨hPG, -⟩ := (s.modeOk_iff.1 hm).2 hi
  simp only [State.ia32e, Bool.or_eq_true, decide_eq_true_eq] at hi
  rcases hi with hcompat | hlong
  · exact ((cr0ChangesMode_eq_false.1 hc).2 hcompat).trans hPG
  · exact (of_cr0Fault_eq_false hf).2 hlong hPG

theorem State.writeCr0_legal {t : State} (hs : s.legal = true) (h : s.writeCr0 v = .ok t) : t.legal = true := by
  obtain ⟨hpar, hmode, hcpl, hhigh, -, hrsvd⟩ := s.legal_iff.1 hs
  obtain ⟨hreal, hia32e⟩ := s.modeOk_iff.1 hmode
  obtain ⟨-, hrest⟩ := s.reservedOk_iff.1 hrsvd
  obtain ⟨hfault, hchange, rfl⟩ := writeCr0_eq_ok.1 h
  obtain ⟨hvalid, -⟩ := of_cr0Fault_eq_false hfault
  have hPE : cr0PE (s.cr0Stored v) = cr0PE s.cr0 := (cr0PE_cr0Stored hpar).trans (cr0ChangesMode_eq_false.1 hchange).1
  have hET : s.par.procFamily ≠ .p4XeonP6 ∨ cr0ET (s.cr0Stored v) = true :=
    (ne_or_eq s.par.procFamily .p4XeonP6).imp_right cr0ET_cr0Stored
  refine (State.legal_iff _).2 ⟨hpar, (State.modeOk_iff _).2 ⟨hPE ▸ hreal, fun hi => ?_⟩, hcpl, hhigh, ?_,
    (State.reservedOk_iff _).2 ⟨cr0Stored_reserved hpar, hrest⟩⟩
  · obtain ⟨-, hPE', hPAE, hfam⟩ := hia32e hi
    exact ⟨(cr0PG_cr0Stored hpar).trans (cr0PG_of_ia32e hmode hfault hchange hi), hPE.trans hPE', hPAE, hfam⟩
  · simpa [State.cr0Ok, cr0Invalid_cr0Stored hpar, hvalid] using hET

/-! ## Writes of CR3, CR4 and CR8 -/

/-- CR3 takes no reserved bit, and bit 63 is one (R9, R45, R244). -/
theorem State.writeCr3_legal {t : State} (hs : s.legal = true) (h : s.writeCr3 v = .ok t) : t.legal = true := by
  obtain ⟨hpar, hmode, hcpl, hhigh, hcr0, hrsvd⟩ := s.legal_iff.1 hs
  obtain ⟨hdr6, hdr7, -⟩ := s.highBitsOk_iff.1 hhigh
  obtain ⟨hrsvd0, -, hrest⟩ := s.reservedOk_iff.1 hrsvd
  have h63 : (v &&& ~~~s.par.cr3Rsvd).getLsbD 63 = false := by
    rw [BitVec.getLsbD_and, BitVec.getLsbD_not, paramsOk_cr3Rsvd hpar]
    simp
  have hzero : v &&& ~~~s.par.cr3Rsvd &&& s.par.cr3Rsvd = 0 := by simp [BitVec.and_assoc]
  unfold State.writeCr3 at h
  repeat' split at h
  all_goals cases h
  exact (State.legal_iff _).2 ⟨hpar, hmode, hcpl, (State.highBitsOk_iff _).2 ⟨hdr6, hdr7, h63⟩, hcr0,
    (State.reservedOk_iff _).2 ⟨hrsvd0, hzero, hrest⟩⟩

/-- The checks of R245 that a legal state needs. -/
theorem State.of_cr4Fault_eq_false (h : s.cr4Fault v = false) :
    v &&& s.par.cr4Rsvd = 0 ∧ (s.ia32e = true → cr4PAE s.cr4 = true → cr4PAE v = true) := by
  simp only [State.cr4Fault, Bool.or_eq_false_iff] at h
  obtain ⟨⟨⟨⟨hrsvd, -⟩, -⟩, hpae⟩, -⟩ := h
  exact ⟨by simpa using hrsvd, by simpa using hpae⟩

/-- CR4 is written behind the check that the processor has it (U9), and PAE cannot be cleared in IA-32e mode (R245). -/
theorem State.writeCr4_legal {t : State} (hs : s.legal = true) (hno : s.noCr4 = false) (h : s.writeCr4 v = .ok t) :
    t.legal = true := by
  obtain ⟨hpar, hmode, hcpl, hhigh, hcr0, hrsvd⟩ := s.legal_iff.1 hs
  obtain ⟨hreal, hia32e⟩ := s.modeOk_iff.1 hmode
  obtain ⟨hrsvd0, hrsvd3, -, hrsvd8, -⟩ := s.reservedOk_iff.1 hrsvd
  unfold State.writeCr4 at h
  split at h
  · cases h
  · rename_i hfault
    cases h
    obtain ⟨hv, hpae⟩ := of_cr4Fault_eq_false (Bool.eq_false_iff.2 hfault)
    refine (State.legal_iff _).2 ⟨hpar, (State.modeOk_iff _).2 ⟨hreal, fun hi => ?_⟩, hcpl, hhigh, hcr0,
      (State.reservedOk_iff _).2 ⟨hrsvd0, hrsvd3, hv, hrsvd8, fun hno' => ?_⟩⟩
    · obtain ⟨hPG, hPE, hPAE, hfam⟩ := hia32e hi
      exact ⟨hPG, hPE, hpae hi hPAE, hfam⟩
    · exact absurd (hno.symm.trans hno') Bool.false_ne_true

theorem State.writeCr8_legal {t : State} (hs : s.legal = true) (h : s.writeCr8 v = .ok t) : t.legal = true := by
  obtain ⟨hpar, hmode, hcpl, hhigh, hcr0, hrsvd⟩ := s.legal_iff.1 hs
  obtain ⟨hrsvd0, hrsvd3, hrsvd4, -, hno⟩ := s.reservedOk_iff.1 hrsvd
  unfold State.writeCr8 at h
  split at h
  · cases h
  · rename_i hv
    cases h
    exact (State.legal_iff _).2 ⟨hpar, hmode, hcpl, hhigh, hcr0,
      (State.reservedOk_iff _).2 ⟨hrsvd0, hrsvd3, hrsvd4, not_not.1 hv, hno⟩⟩

theorem State.crWrite_legal {t : State} {c : BitVec 4} (hs : s.legal = true)
    (h4 : (decide (c = 4) && s.noCr4) = false) (h : s.crWrite c v = .ok t) : t.legal = true := by
  unfold State.crWrite at h
  split at h
  · exact writeCr0_legal hs h
  · cases h
    exact hs
  · exact writeCr3_legal hs h
  · rename_i hc
    have hno : s.noCr4 = false := by simpa [BitVec.eq_of_toNat_eq (y := (4 : BitVec 4)) hc] using h4
    exact writeCr4_legal hs hno h
  · exact writeCr8_legal hs h
  · cases h

/-! ## Writes of debug registers -/

/-- The high bits of DR6 and DR7 stay 0: a value with one of them set raises #GP(0) (R50, R275). -/
theorem State.drWrite_legal {t : State} {i : BitVec 3} (hs : s.legal = true) (h : s.drWrite i v = .ok t) :
    t.legal = true := by
  obtain ⟨hv, rfl⟩ := State.drWrite_eq_ok.1 h
  obtain ⟨hpar, hmode, hcpl, hhigh, hcr0, hrsvd⟩ := s.legal_iff.1 hs
  obtain ⟨hdr6, hdr7, hcr3⟩ := s.highBitsOk_iff.1 hhigh
  have hzero : i = 6 ∨ i = 7 → v.extractLsb' 32 32 = 0 := fun hi => not_not.1 fun hne => hv ⟨hi, hne⟩
  unfold State.drStore
  split
  case h_5 hi =>
    have hv6 := hzero (.inl (BitVec.eq_of_toNat_eq hi))
    exact (State.legal_iff _).2
      ⟨hpar, hmode, hcpl, (State.highBitsOk_iff _).2 ⟨hv6, hdr7, hcr3⟩, hcr0, hrsvd⟩
  case h_6 hi =>
    have hv7 := hzero (.inr (BitVec.eq_of_toNat_eq hi))
    exact (State.legal_iff _).2
      ⟨hpar, hmode, hcpl, (State.highBitsOk_iff _).2 ⟨hdr6, hv7, hcr3⟩, hcr0, hrsvd⟩
  all_goals exact hs

end

/-! ## Steps -/

theorem SystemStep.legal {s t : State} (hs : s.legal = true) (h : SystemStep s t) : t.legal = true := by
  cases h with
  | same ht => exact (State.legal_congr ht).trans hs
  | controlWrite p c v u _ h4 hu ht => exact (State.legal_congr ht).trans (State.crWrite_legal hs h4 hu)
  | debugWrite p d v u _ hu ht => exact (State.legal_congr ht).trans (State.drWrite_legal hs hu)

/-- Settles O59: the step starts the instruction in a state with the same system part, and what an instruction can do to it
keeps it legal. -/
theorem stepKeepsLegal : Obligations.StepKeepsLegal := by
  intro s t hs h
  obtain ⟨-, -, bytes, i, rest, -, -, hexec⟩ := step_eq_next h
  have hbegin : s.begin.legal = true := (State.legal_congr s.system_begin).trans hs
  exact (exec_systemStep hexec).legal hbegin

end Sys2Proof.Machine
end

section
/-! SUPPORT. What the decoder reads is a row of R124 under the mode and code size it was read under (30_encoding.md R124, R125);
outside LONG64 such a row has no REX byte in force and no 64-bit operand (R108, R112). -/

namespace Sys2Proof

open Sys2Proof.Machine (except_map_eq_ok)

/-! ## What selects a row -/

theorem opSize_cases (c : Ctx) (p : Prefixes) : opSize c p = .b16 ∨ opSize c p = .b32 ∨ opSize c p = .b64 := by
  unfold opSize
  repeat' split
  all_goals simp

/-- A 64-bit operand size takes REX.W, which only LONG64 has (R112). -/
theorem opSize_ne_b64 {c : Ctx} (p : Prefixes) (hm : c.mode ≠ .long64) : opSize c p ≠ .b64 := by
  unfold opSize
  split
  · exact absurd ‹_› hm
  all_goals
    split
    · exact nofun
    · exact nofun

theorem Prefixes.rex_eq_none_of_wf {c : Ctx} {p : Prefixes} (hm : c.mode ≠ .long64) (h : p.wf c = true) :
    p.rex = none := by
  simp [Prefixes.wf, hm] at h
  exact h.2.1

/-- Every row asks for prefixes that bytes can hold. -/
theorem Instr.prefixes_wf_of_rowOk {c : Ctx} {i : Instr} (h : i.rowOk c = true) : i.prefixes.wf c = true := by
  cases i <;> simp only [Instr.rowOk, rmRow, moffsRow, Bool.and_eq_true] at h <;> simp only [Instr.prefixes, h]

/-! ## What is read -/

section
variable {c : Ctx} {p : Prefixes} {bs rest : List Byte}

theorem rmRow_of_readModRm {reg : BitVec 3} {rm : Rm} (hp : p.wf c = true)
    (h : readModRm (addrSize c p) bs = .ok (reg, rm, rest)) : rmRow c p rm = true := by
  simp [rmRow, hp, (readModRm_eq_ok _ _ _ _ _ h).2]

theorem moffsRow_of_readMoffs {off : Moffs} (hp : p.wf c = true)
    (h : readMoffs (addrSize c p) bs = .ok (off, rest)) : moffsRow c p off = true := by
  simp [moffsRow, hp, (readMoffs_eq_ok _ _ _ _ h).2]

/-- The operands read after an opcode make a row whose condition holds: the same tests that choose between rows with one
opcode are the conditions of the rows. -/
theorem readOperands_rowOk {op : Opcode} {i : Instr} (hp : p.wf c = true)
    (h : readOperands c p op bs = .ok (i, rest)) : i.rowOk c = true := by
  have hsize := opSize_cases c p
  cases op with
  | mr wide | rm wide =>
    cases wide <;>
    · obtain ⟨⟨reg, rm, bs'⟩, hread, heq⟩ := except_map_eq_ok.1 h
      have hrow := rmRow_of_readModRm hp hread
      grind [Instr.rowOk, sized]
  | fromSreg | toSreg =>
    obtain ⟨⟨reg, rm, bs'⟩, hread, heq⟩ := except_map_eq_ok.1 h
    have hrow := rmRow_of_readModRm hp hread
    grind [Instr.rowOk]
  | fd wide | td wide =>
    cases wide <;>
    · obtain ⟨⟨off, bs'⟩, hread, heq⟩ := except_map_eq_ok.1 h
      have hrow := moffsRow_of_readMoffs hp hread
      grind [Instr.rowOk, sized]
  | oiByte r =>
    obtain ⟨⟨v, bs'⟩, -, heq⟩ := except_map_eq_ok.1 h
    grind [Instr.rowOk]
  | oi r =>
    unfold readOperands at h
    rcases hsize with hw | hw | hw <;> rw [hw] at h <;>
    · obtain ⟨⟨v, bs'⟩, -, heq⟩ := except_map_eq_ok.1 h
      grind [Instr.rowOk, sized]
  | mi wide =>
    unfold readOperands at h
    cases hread : readModRm (addrSize c p) bs with
    | error e => simp [hread] at h
    | ok read =>
      obtain ⟨reg, rm, bs'⟩ := read
      have hrow := rmRow_of_readModRm hp hread
      simp only [hread] at h
      split at h
      · cases h
      · cases wide with
        | false =>
          obtain ⟨⟨v, bs''⟩, -, heq⟩ := except_map_eq_ok.1 h
          grind [Instr.rowOk]
        | true =>
          rcases hsize with hw | hw | hw <;> rw [if_pos rfl, hw] at h <;>
          · obtain ⟨⟨v, bs''⟩, -, heq⟩ := except_map_eq_ok.1 h
            grind [Instr.rowOk, sized]
  | fromCr | toCr | fromDr | toDr =>
    obtain ⟨⟨⟨mod, reg, rm⟩, bs'⟩, -, heq⟩ := except_map_eq_ok.1 h
    grind [Instr.rowOk]

/-- What the decoder reads is a row of R124 under the mode and code size (R125). -/
theorem decode_rowOk {i : Instr} (h : decode c bs = .ok (i, rest)) : i.rowOk c = true := by
  unfold decode at h
  split at h
  · cases h
  · split at h
    · cases h
    · split at h
      · cases h
      · split at h
        · cases h
        · split at h
          · cases h
          · rename_i hscan _ _ hcheck _ _ _ _ _ _ _ hoperands _
            cases h
            exact readOperands_rowOk (prefixes_wf_of_read _ _ _ _ _ hscan hcheck) hoperands

end

end Sys2Proof
end

section
/-! SUPPORT. The one lemma on what an instruction that completes has done (40_mov_general.md R164, R165; 41_mov_segment.md R206,
R222; R253, R280): which part of the state it wrote, and how it moved pc and int_shadow. And the one on what an exception
leaves. -/

namespace Sys2Proof.Machine

/-! ## What a MOV-Move instruction writes -/

/-- What a MOV-Move instruction with prefixes `p` that loads no segment register writes before it completes (R165): one
register operand of a width, whose number is below 8 without REX (R108), or memory. -/
inductive MoveWrite (s : State) (p : Prefixes) (w : Width) : State → Prop where
  | register (n : BitVec 4) (v : Word) (d : Nat) (hn : p.rex = none → n.toNat < 8) :
      MoveWrite s p w { s.regWrite w n p.hasRex v with draws := d }
  | memory (m : Memory) : MoveWrite s p w { s with mem := m }

theorem MoveWrite.eq_update {s u : State} {p : Prefixes} {w : Width} (h : MoveWrite s p w u) :
    u = { s with x := u.x, mem := u.mem, draws := u.draws } := by
  cases h with
  | register n v d hn =>
    obtain ⟨j, a, hset⟩ := s.regWrite_eq_setReg w n p.hasRex v
    rw [hset]
    rfl
  | memory m => rfl

/-- Without REX a register number has only the three bits of its field (R108). -/
theorem extend_false_toNat_lt (r : BitVec 3) : (extend false r).toNat < 8 := by
  revert r
  decide

theorem rmNum_toNat_lt {p : Prefixes} (r : BitVec 3) (h : p.rex = none) : (p.rmNum r).toNat < 8 := by
  simpa [Prefixes.rmNum, Prefixes.rexB, h] using extend_false_toNat_lt r

theorem regNum_toNat_lt {p : Prefixes} (r : BitVec 3) (h : p.rex = none) : (p.regNum r).toNat < 8 := by
  simpa [Prefixes.regNum, Prefixes.rexR, h] using extend_false_toNat_lt r

section
variable {s u : State} {p : Prefixes} {len : Nat} {w : Width} {rm : Rm} {v : Word}

theorem MoveWrite.regWrite {n : BitVec 4} (hn : p.rex = none → n.toNat < 8) :
    MoveWrite s p w (s.regWrite w n p.hasRex v) :=
  .register n v (s.regWrite w n p.hasRex v).draws hn

theorem State.storeOp_moveWrite {r : Sreg} {off : Word} {n : Nat} (h : s.storeOp r off n v = .ok u) :
    MoveWrite s p w u := by
  obtain ⟨_, _, _, rfl⟩ := State.storeOp_eq_ok h
  exact .memory _

theorem State.writeRm_moveWrite (h : s.writeRm p len w rm v = .ok u) : MoveWrite s p w u := by
  rcases State.writeRm_eq_ok h with ⟨r, -, rfl⟩ | ⟨m, -, hstore⟩
  · exact .regWrite (rmNum_toNat_lt r)
  · exact State.storeOp_moveWrite hstore

theorem map_regWrite_moveWrite {r : Except Stop Word} {n : BitVec 4} (hn : p.rex = none → n.toNat < 8)
    (h : (r.map fun v => s.regWrite w n p.hasRex v) = .ok u) : MoveWrite s p w u := by
  obtain ⟨v, -, rfl⟩ := except_map_eq_ok.1 h
  exact .regWrite hn

theorem State.selToReg32_moveWrite {r : BitVec 3} {sel : BitVec 16} :
    MoveWrite s p .b32 (s.selToReg32 (p.rmNum r) p.hasRex sel) := by
  unfold State.selToReg32
  split
  · exact .register _ _ _ (rmNum_toNat_lt r)
  · exact .regWrite (rmNum_toNat_lt r)

/-- A selector is written to a register at the operand size, or to two bytes of memory (R201, R203, R205). -/
theorem State.writeSelector_moveWrite {sel : BitVec 16} (h : s.writeSelector p len rm sel = .ok u) :
    ∃ w, (w = .b64 → s.mode = .long64) ∧ MoveWrite s p w u := by
  unfold State.writeSelector at h
  split at h
  · exact ⟨.b16, nofun, State.writeRm_moveWrite h⟩
  · split at h
    · cases h
      exact ⟨.b32, nofun, State.selToReg32_moveWrite⟩
    · refine ⟨opSize s.ctx p, fun h64 => ?_, State.writeRm_moveWrite h⟩
      exact not_not.1 fun hm => opSize_ne_b64 p hm h64

end

/-! ## Completion -/

/-- Whether an instruction is a load of a segment register (R206, R207). -/
def isSegmentLoad : Instr → Bool
  | .movSregRm16 _ _ _ | .movSregRm64 _ _ _ => true
  | _ => false

theorem isSegmentLoad_eq_true {i : Instr} (h : isSegmentLoad i = true) :
    ∃ p g rm, i = .movSregRm16 p g rm ∨ i = .movSregRm64 p g rm := by
  unfold isSegmentLoad at h
  split at h
  · exact ⟨_, _, _, .inl rfl⟩
  · exact ⟨_, _, _, .inr rfl⟩
  · cases h

/-- A row selected by a 64-bit operand size is one of LONG64 (R112). -/
theorem mode_of_sized_b64 {s : State} {p : Prefixes} {a : Bool} (h : (a && sized s.ctx p .b64) = true) :
    s.mode = .long64 := by
  simp only [sized, Bool.and_eq_true, decide_eq_true_eq] at h
  exact not_not.1 fun hm => opSize_ne_b64 p hm h.2

/-- A width that an operand of an instruction can have: 64 bits, in a row that R124 admits, only in LONG64 (R112, R125). -/
def widthAdmitted (s : State) (i : Instr) (w : Width) : Prop := i.rowOk s.ctx = true → w = .b64 → s.mode = .long64

/-- How an instruction that completes leads from `s` to `t`. -/
inductive Completion (i : Instr) (s t : State) : Prop where
  /-- A MOV-Move instruction other than a load of a segment register. -/
  | move (w : Width) (u : State) (hi : i.isMove = true) (hload : isSegmentLoad i = false)
      (hw : widthAdmitted s i w) (hu : MoveWrite s i.prefixes w u)
      (ht : u.complete i.size = t)
  /-- A load of a segment register, never CS (R220). -/
  | segmentLoad (p : Prefixes) (g : BitVec 3) (rm : Rm) (r : Sreg) (sel : BitVec 16) (u : State)
      (hi : i = .movSregRm16 p g rm ∨ i = .movSregRm64 p g rm) (hr : sregOf g = some r) (hcs : r ≠ .cs)
      (hu : s.loadSeg r sel = .ok u) (ht : u.completeLoad r i.size = t)
  /-- A MOV from a control or debug register. -/
  | systemRead (w : Width) (n : BitVec 4) (v : Word) (hi : i.isMove = false)
      (hw : widthAdmitted s i w) (hn : i.prefixes.rex = none → n.toNat < 8)
      (ht : (s.regWrite w n false v).completeUndef i.size = t)
  /-- A MOV to a control register. -/
  | controlWrite (c : BitVec 4) (v : Word) (u : State) (hi : i.isMove = false) (hu : s.crWrite c v = .ok u)
      (ht : u.completeUndef i.size = t)
  /-- A MOV to a debug register. -/
  | debugWrite (d : BitVec 3) (v : Word) (u : State) (hi : i.isMove = false) (hu : s.drWrite d v = .ok u)
      (ht : u.completeUndef i.size = t)

section
variable {i : Instr} {s t : State} {w : Width} {p : Prefixes}

theorem moveStep_completion {e : Except Stop State} (h : moveStep p i.size s e = .next t)
    (he : ∀ u, e = .ok u → MoveWrite s i.prefixes w u) (hi : i.isMove = true) (hload : isSegmentLoad i = false)
    (hw : widthAdmitted s i w) : Completion i s t := by
  obtain ⟨-, u, hu, ht⟩ := moveStep_eq_next.1 h
  exact .move w u hi hload hw (he u hu) ht

theorem moveImmToReg_completion {r : BitVec 3} {imm : Word} (h : moveImmToReg w i.prefixes i.size r imm s = .next t)
    (hi : i.isMove = true) (hload : isSegmentLoad i = false) (hw : widthAdmitted s i w) : Completion i s t := by
  refine moveStep_completion h (fun u hu => ?_) hi hload hw
  cases hu
  exact .regWrite (rmNum_toNat_lt r)

theorem moveFromSreg_completion {g : BitVec 3} {rm : Rm} (hi : i.isMove = true) (hload : isSegmentLoad i = false)
    (h : moveFromSreg i.prefixes i.size g rm s = .next t) : Completion i s t := by
  unfold moveFromSreg at h
  split at h
  · cases h
  · obtain ⟨-, u, hu, ht⟩ := moveStep_eq_next.1 h
    obtain ⟨w, hw, hwrite⟩ := State.writeSelector_moveWrite hu
    exact .move w u hi hload (fun _ => hw) hwrite ht

theorem moveFromCr_completion {c : BitVec 4} {rm : BitVec 3} (h : moveFromCr w i.prefixes i.size c rm s = .next t)
    (hi : i.isMove = false) (hw : widthAdmitted s i w) : Completion i s t := by
  obtain ⟨-, -, ht⟩ := moveFromCr_eq_next.1 h
  exact .systemRead w _ _ hi hw (rmNum_toNat_lt rm) ht

theorem moveFromDr_completion {d rm : BitVec 3} (h : moveFromDr w i.prefixes i.size d rm s = .next t)
    (hi : i.isMove = false) (hw : widthAdmitted s i w) : Completion i s t := by
  obtain ⟨-, ht⟩ := moveFromDr_eq_next.1 h
  exact .systemRead w _ _ hi hw (rmNum_toNat_lt rm) ht

theorem moveToCr_completion {c : BitVec 4} {rm : BitVec 3} (hi : i.isMove = false)
    (h : moveToCr w i.prefixes i.size c rm s = .next t) : Completion i s t := by
  obtain ⟨-, -, u, hu, ht⟩ := moveToCr_eq_next.1 h
  exact .controlWrite _ _ u hi hu ht

theorem moveToDr_completion {d rm : BitVec 3} (hi : i.isMove = false)
    (h : moveToDr w i.prefixes i.size d rm s = .next t) : Completion i s t := by
  obtain ⟨-, u, hu, ht⟩ := moveToDr_eq_next.1 h
  exact .debugWrite _ _ u hi hu ht

theorem moveToSreg_completion {g : BitVec 3} {rm : Rm} (hi : i = .movSregRm16 p g rm ∨ i = .movSregRm64 p g rm)
    (h : moveToSreg p i.size g rm s = .next t) : Completion i s t := by
  rcases moveToSreg_cases s p i.size g rm with hud | ⟨st, m, -, -, hstop⟩ | ⟨r, sel, hr, hcs, -, hload⟩
  · cases hud.symm.trans h
  · cases settle_eq_next.1 (hstop.symm.trans h)
  · obtain ⟨u, hu, ht⟩ := except_map_eq_ok.1 (settle_eq_next.1 (hload.symm.trans h))
    exact .segmentLoad p g rm r sel u hi hr hcs hu ht

end

/-- Every instruction that completes, by the shared operation its row calls. -/
theorem exec_completion {i : Instr} {s t : State} (h : exec i s = .next t) : Completion i s t := by
  cases i with
  | movRm8R8 | movRm8R8Rex | movRm16R16 | movRm32R32 | movRm8Imm8 | movRm8Imm8Rex | movRm16Imm16 | movRm32Imm32 =>
    exact moveStep_completion h (fun _ => State.writeRm_moveWrite) rfl rfl fun _ => nofun
  | movRm64R64 | movRm64Imm32 =>
    exact moveStep_completion h (fun _ => State.writeRm_moveWrite) rfl rfl fun hrow _ => mode_of_sized_b64 hrow
  | movR8Rm8 | movR8Rm8Rex | movR16Rm16 | movR32Rm32 =>
    exact moveStep_completion h (fun _ => map_regWrite_moveWrite (regNum_toNat_lt _)) rfl rfl fun _ => nofun
  | movR64Rm64 =>
    exact moveStep_completion h (fun _ => map_regWrite_moveWrite (regNum_toNat_lt _)) rfl rfl
      fun hrow _ => mode_of_sized_b64 hrow
  | movRm16Sreg | movRm64Sreg => exact moveFromSreg_completion rfl rfl h
  | movSregRm16 => exact moveToSreg_completion (.inl rfl) h
  | movSregRm64 => exact moveToSreg_completion (.inr rfl) h
  | movAlMoffs8 | movAlMoffs8RexW | movAxMoffs16 | movEaxMoffs32 =>
    exact moveStep_completion h (fun _ => map_regWrite_moveWrite fun _ => by decide) rfl rfl fun _ => nofun
  | movRaxMoffs64 =>
    exact moveStep_completion h (fun _ => map_regWrite_moveWrite fun _ => by decide) rfl rfl
      fun hrow _ => mode_of_sized_b64 hrow
  | movMoffs8Al | movMoffs8AlRexW | movMoffs16Ax | movMoffs32Eax | movMoffs64Rax =>
    exact moveStep_completion (w := .b8) h (fun _ => State.storeOp_moveWrite) rfl rfl fun _ => nofun
  | movR8Imm8 | movR8Imm8Rex | movR16Imm16 | movR32Imm32 =>
    exact moveImmToReg_completion h rfl rfl fun _ => nofun
  | movR64Imm64 => exact moveImmToReg_completion h rfl rfl fun hrow _ => mode_of_sized_b64 hrow
  | movR32Cr => exact moveFromCr_completion h rfl fun _ => nofun
  | movR64Cr | movR64Cr8 =>
    refine moveFromCr_completion h rfl fun hrow _ => ?_
    simp only [Instr.rowOk, Bool.and_eq_true, decide_eq_true_eq] at hrow
    exact hrow.1.2
  | movCrR32 | movCrR64 | movCr8R64 => exact moveToCr_completion rfl h
  | movR32Dr => exact moveFromDr_completion h rfl fun _ => nofun
  | movR64Dr =>
    refine moveFromDr_completion h rfl fun hrow _ => ?_
    simp only [Instr.rowOk, Bool.and_eq_true, decide_eq_true_eq] at hrow
    exact hrow.2
  | movDrR32 | movDrR64 => exact moveToDr_completion rfl h

end Sys2Proof.Machine
end

section
/-! PROOF. Outside LONG64 no step reaches bits 63:32 of a general register or the registers 8 to 15 (10_state.md R27): what the
decoder reads there has no REX byte in force and no 64-bit operand, and every register write is one of such an operand. -/

namespace Sys2Proof.Machine

/-- Bits 63:32 of every general register, and the whole of registers 8 to 15, are as before. -/
def sameWide (s t : State) : Prop :=
  ∀ j : BitVec 4, (t.reg j).extractLsb' 32 32 = (s.reg j).extractLsb' 32 32 ∧ (8 ≤ j.toNat → t.reg j = s.reg j)

theorem sameWide_of_x {s t : State} (h : t.x = s.x) : sameWide s t := by
  have hreg : ∀ j, t.reg j = s.reg j := fun j => by simp only [State.reg, h]
  exact fun j => ⟨by rw [hreg], fun _ => hreg j⟩

/-- An operand below register 8 lies in a register below 8: AH, CH, DH and BH are in the first four (R23). -/
theorem operandAt_toNat_lt {w : Width} {n : BitVec 4} {rex : Bool} (hn : n.toNat < 8) :
    (operandAt w n rex).1.toNat < 8 := by
  unfold operandAt
  split
  · rename_i hhigh
    obtain ⟨-, -, h4, -⟩ := hhigh
    show (n - 4).toNat < 8
    bv_omega
  · exact hn

theorem operandAt_add_bits_le {w : Width} {n : BitVec 4} {rex : Bool} (hw : w ≠ .b64) :
    (operandAt w n rex).2 + w.bits ≤ 32 := by
  unfold operandAt
  split
  · rename_i hhigh
    rw [hhigh.1]
    simp [Width.bits]
  · cases w with
    | b64 => exact absurd rfl hw
    | b8 | b16 | b32 => simp [Width.bits]

/-- Outside LONG64 a register write of at most 32 bits stays in the low half of one of the first eight registers (R25). -/
theorem State.sameWide_regWrite {s : State} {w : Width} {n : BitVec 4} {rex : Bool} {v : Word}
    (hm : s.mode ≠ .long64) (hw : w ≠ .b64) (hn : n.toNat < 8) : sameWide s (s.regWrite w n rex v) := by
  have hreg := operandAt_toNat_lt (w := w) (rex := rex) hn
  have hbits := operandAt_add_bits_le (n := n) (rex := rex) hw
  have hwritten := regWrite_written s w n rex v
  intro j
  refine ⟨BitVec.eq_of_getLsbD_eq fun k hk => ?_, fun hj => BitVec.eq_of_getLsbD_eq fun k hk => ?_⟩
  · have hout : ¬ ((operandAt w n rex).2 ≤ 32 + k ∧ 32 + k < (operandAt w n rex).2 + w.bits) := by omega
    simp only [BitVec.getLsbD_extractLsb', hwritten j (32 + k) (by omega), hm, hout, and_false, if_false, ite_self]
  · have hne : j ≠ (operandAt w n rex).1 := fun h => by
      rw [h] at hj
      omega
    rw [hwritten j k hk, if_neg hne]

/-- What a completed instruction of a row of R124 leaves of the wide registers outside LONG64. -/
theorem Completion.sameWide {i : Instr} {s t : State} (hm : s.mode ≠ .long64) (hrow : i.rowOk s.ctx = true)
    (h : Completion i s t) : sameWide s t := by
  have hrex : i.prefixes.rex = none := Prefixes.rex_eq_none_of_wf hm (Instr.prefixes_wf_of_rowOk hrow)
  cases h with
  | move w u _ _ hw hu ht =>
    subst ht
    cases hu with
    | register n v d hn => exact State.sameWide_regWrite hm (fun h64 => hm (hw hrow h64)) (hn hrex)
    | memory m => exact sameWide_of_x rfl
  | segmentLoad p g rm r sel u _ _ _ hu ht =>
    subst ht
    obtain ⟨d, n, rfl⟩ := State.loadSeg_eq_ok hu
    exact sameWide_of_x (by simp)
  | systemRead w n v _ hw hn ht =>
    subst ht
    exact State.sameWide_regWrite hm (fun h64 => hm (hw hrow h64)) (hn hrex)
  | controlWrite c v u _ hu ht =>
    subst ht
    obtain ⟨_, _, _, _, _, _, rfl⟩ := State.crWrite_eq_ok hu
    exact sameWide_of_x rfl
  | debugWrite d v u _ hu ht =>
    subst ht
    obtain ⟨-, rfl⟩ := State.drWrite_eq_ok.1 hu
    exact sameWide_of_x (by simp)

/-- Settles O56: the instruction a step runs is a row of R124 in the mode, since the decoder read it. -/
theorem narrowRegisters : Obligations.NarrowRegisters := by
  intro s t j hm h
  obtain ⟨-, -, bytes, i, rest, -, hdecode, hexec⟩ := step_eq_next h
  have hrow : i.rowOk s.begin.ctx = true := decode_rowOk hdecode
  have hmode : s.begin.mode ≠ .long64 := hm
  exact (exec_completion hexec).sameWide hmode hrow j

end Sys2Proof.Machine
end

section
/-! PROOF. What a completed instruction does to pc, int_shadow and the fields it does not write, and what an exception leaves
(10_state.md R28, R29, R30, R53; 40_mov_general.md R165; 41_mov_segment.md R218, R222), from how it completes. -/

namespace Sys2Proof.Machine

/-! ## Exceptions -/

/-- A fault that an instruction raises: an exception, in the state before the instruction but for int_shadow (R300, R311). -/
def isPrecise (s : State) (f : Fault) : Prop := ∃ e, f = .exception e { s with intShadow := false }

section
variable {s : State} {f : Fault} {p : Prefixes} {len : Nat} {w : Width}

theorem raise_isPrecise {e : Exception} (h : raise e s = .fault f) : isPrecise s f := by
  cases h
  exact ⟨e, rfl⟩

theorem settle_isPrecise {r : Except Stop State} (h : settle s r = .fault f) : isPrecise s f := by
  obtain ⟨e, -, hf⟩ := settle_eq_fault h
  exact ⟨e, hf⟩

theorem moveStep_isPrecise {e : Except Stop State} (h : moveStep p len s e = .fault f) : isPrecise s f := by
  unfold moveStep at h
  split at h
  · exact raise_isPrecise h
  · exact settle_isPrecise h

theorem moveFromSreg_isPrecise {g : BitVec 3} {rm : Rm} (h : moveFromSreg p len g rm s = .fault f) :
    isPrecise s f := by
  unfold moveFromSreg at h
  split at h
  · exact raise_isPrecise h
  · exact moveStep_isPrecise h

theorem moveToSreg_isPrecise {g : BitVec 3} {rm : Rm} (h : moveToSreg p len g rm s = .fault f) : isPrecise s f := by
  rcases moveToSreg_cases s p len g rm with hud | ⟨st, m, -, -, hstop⟩ | ⟨r, sel, -, -, -, hload⟩
  · exact raise_isPrecise (hud.symm.trans h)
  · exact settle_isPrecise (hstop.symm.trans h)
  · exact settle_isPrecise (hload.symm.trans h)

theorem moveFromCr_isPrecise {c : BitVec 4} {rm : BitVec 3} (h : moveFromCr w p len c rm s = .fault f) :
    isPrecise s f := by
  unfold moveFromCr at h
  split at h
  · exact raise_isPrecise h
  · split at h <;> cases h

theorem moveToCr_isPrecise {c : BitVec 4} {rm : BitVec 3} (h : moveToCr w p len c rm s = .fault f) :
    isPrecise s f := by
  unfold moveToCr at h
  split at h
  · exact raise_isPrecise h
  · split at h
    · cases h
    · exact settle_isPrecise h

theorem moveFromDr_isPrecise {d rm : BitVec 3} (h : moveFromDr w p len d rm s = .fault f) : isPrecise s f := by
  unfold moveFromDr at h
  split at h
  · exact raise_isPrecise h
  · cases h

theorem moveToDr_isPrecise {d rm : BitVec 3} (h : moveToDr w p len d rm s = .fault f) : isPrecise s f := by
  unfold moveToDr at h
  split at h
  · exact raise_isPrecise h
  · exact settle_isPrecise h

/-- Every fault of an instruction is an exception raised before anything is written (R311). -/
theorem exec_isPrecise {i : Instr} (h : exec i s = .fault f) : isPrecise s f := by
  cases i with
  | movRm16Sreg | movRm64Sreg => exact moveFromSreg_isPrecise h
  | movSregRm16 | movSregRm64 => exact moveToSreg_isPrecise h
  | movR32Cr | movR64Cr | movR64Cr8 => exact moveFromCr_isPrecise h
  | movCrR32 | movCrR64 | movCr8R64 => exact moveToCr_isPrecise h
  | movR32Dr | movR64Dr => exact moveFromDr_isPrecise h
  | movDrR32 | movDrR64 => exact moveToDr_isPrecise h
  | _ => exact moveStep_isPrecise h

end

/-! ## The instruction pointer -/

section
variable {i : Instr} {s t : State}

/-- The width of the instruction pointer is a matter of the mode and CS_D (R29). -/
theorem State.pcWrap_congr (hmode : t.mode = s.mode) (hcsD : t.csD = s.csD) (a : Word) : t.pcWrap a = s.pcWrap a := by
  simp only [State.pcWrap, hmode, hcsD]

theorem State.completeLoad_pc (s : State) (r : Sreg) (len : Nat) :
    (s.completeLoad r len).pc = s.pcWrap (s.pc + BitVec.ofNat 64 len) := by
  obtain ⟨_, _, h⟩ := s.completeLoad_eq r len
  rw [h]
  rfl

theorem Completion.pc_eq (h : Completion i s t) : t.pc = s.pcWrap (s.pc + BitVec.ofNat 64 i.size) := by
  cases h with
  | move w u _ _ _ hu ht =>
    rw [← ht, State.complete_pc, hu.eq_update]
    rfl
  | segmentLoad p g rm r sel u _ _ _ hu ht =>
    obtain ⟨d, n, rfl⟩ := State.loadSeg_eq_ok hu
    rw [← ht, State.completeLoad_pc]
    simp only [State.setSreg_pc]
    exact State.pcWrap_congr (State.setSreg_mode ..) (State.setSreg_csD ..) _
  | systemRead w n v _ _ _ ht =>
    rw [← ht, State.completeUndef_pc, State.regWrite_pc]
    exact State.pcWrap_congr (State.regWrite_mode ..) (State.regWrite_csD ..) _
  | controlWrite c v u _ hu ht =>
    obtain ⟨_, _, _, _, _, _, rfl⟩ := State.crWrite_eq_ok hu
    rw [← ht]
    rfl
  | debugWrite d v u _ hu ht =>
    obtain ⟨-, rfl⟩ := State.drWrite_eq_ok.1 hu
    rw [← ht, State.completeUndef_pc, State.drStore_pc]
    exact State.pcWrap_congr (State.drStore_mode ..) (State.drStore_csD ..) _

end

/-- Settles O51: the sum is taken modulo 2^64 and then modulo the width, which divides it. -/
theorem programCounter : Obligations.ProgramCounter := by
  intro s t i
  refine ⟨fun h => ?_, fun e h => ?_⟩
  · rw [(exec_completion h).pc_eq, pcWrap_toNat, BitVec.toNat_add, BitVec.toNat_ofNat]
    split
    · omega
    · split
      · omega
      · omega
  · obtain ⟨e', hf⟩ := exec_isPrecise h
    cases hf
    rfl

/-! ## What a move leaves alone -/

/-- Settles O52: a register write or a store touches none of these fields, and a load only its segment register. -/
theorem moveFrame : Obligations.MoveFrame := by
  intro s t i hi h
  have hsystem : ∀ {P : Prop}, i.isMove = false → P := fun hf => absurd (hi.symm.trans hf) (by decide)
  cases exec_completion h with
  | move w u _ _ _ hu ht =>
    rw [← ht, hu.eq_update]
    exact ⟨rfl, fun _ => rfl⟩
  | segmentLoad p g rm r sel u hload _ _ hu ht =>
    refine ⟨?_, fun hno => ?_⟩
    · obtain ⟨d, n, rfl⟩ := State.loadSeg_eq_ok hu
      obtain ⟨b, m, hcomplete⟩ := State.completeLoad_eq { s.setSreg r { sel := sel, hidden := d } with draws := n } r i.size
      rw [← ht, hcomplete]
      cases r <;> rfl
    · exact (hload.elim (hno p g rm).1 (hno p g rm).2).elim
  | systemRead _ _ _ hf => exact hsystem hf
  | controlWrite _ _ _ hf => exact hsystem hf
  | debugWrite _ _ _ hf => exact hsystem hf

/-! ## The interrupt inhibition -/

theorem sregOf_eq_ss {g : BitVec 3} (h : sregOf g = some .ss) : g = 2 := by
  revert g
  decide

/-- Settles O54: completion clears int_shadow, except that of a load of SS, whose number is 2 (R110). -/
theorem shadowOnlyAfterStackLoad : Obligations.ShadowOnlyAfterStackLoad := by
  intro s t i h hshadow
  cases exec_completion h with
  | move w u _ _ _ _ ht => subst ht; cases hshadow
  | systemRead _ _ _ _ _ _ ht => subst ht; cases hshadow
  | controlWrite _ _ _ _ _ ht => subst ht; cases hshadow
  | debugWrite _ _ _ _ _ ht => subst ht; cases hshadow
  | segmentLoad p g rm r sel u hi hr _ _ ht =>
    have hss : r = .ss := by
      by_contra hne
      subst ht
      rw [State.completeLoad, if_neg hne] at hshadow
      cases hshadow
    obtain rfl : g = 2 := sregOf_eq_ss (hss ▸ hr)
    exact ⟨p, rm, hi⟩

/-! ## The mode -/

theorem State.fixed_of_system_eq {t u : State} (h : t.system = u.system) :
    t.mode = u.mode ∧ t.cpl = u.cpl ∧ t.csD = u.csD ∧ t.seg.cs = u.seg.cs ∧ t.text = u.text ∧ t.par = u.par :=
  ⟨congrArg System.mode h, congrArg System.cpl h, congrArg System.csD h, congrArg System.cs h,
    congrArg System.text h, congrArg System.par h⟩

/-- What a write of the system state leaves of it: everything but the control and debug registers and the TLB events. -/
theorem SystemStep.fixed {s t : State} (h : SystemStep s t) :
    t.mode = s.mode ∧ t.cpl = s.cpl ∧ t.csD = s.csD ∧ t.seg.cs = s.seg.cs ∧ t.text = s.text ∧ t.par = s.par := by
  cases h with
  | same ht => exact State.fixed_of_system_eq ht
  | controlWrite p c v u _ _ hu ht =>
    obtain ⟨_, _, _, _, _, _, rfl⟩ := State.crWrite_eq_ok hu
    have hfixed := State.fixed_of_system_eq ht
    exact hfixed
  | debugWrite p d v u _ hu ht =>
    obtain ⟨-, rfl⟩ := State.drWrite_eq_ok.1 hu
    simpa using State.fixed_of_system_eq ht

/-- Settles O55: these fields are of the system state, and no write of it reaches them. -/
theorem stepKeepsMode : Obligations.StepKeepsMode := by
  intro s t h
  obtain ⟨-, -, bytes, i, rest, -, -, hexec⟩ := step_eq_next h
  exact (exec_systemStep hexec).fixed

/-! ## Reset -/

/-- Settles O60: the values are those of the definition, and the empty text ends at the first step. -/
theorem resetState : Obligations.ResetState := by
  refine ⟨by decide, rfl, rfl, rfl, rfl, rfl, rfl, rfl, rfl, rfl, ?_⟩
  have hend : State.reset.atEnd = true := by decide
  rw [step, if_pos hend]

end Sys2Proof.Machine
end

section
/-! PROOF. When the segment-level checks of a data access fail, mode by mode, and when an access in LONG64 passes (20_memory.md
R66 to R70; 10_state.md R34, R35): one lemma for each check, and for which of two failing checks is reported. -/

namespace Sys2Proof

/-- The last byte decides, for offsets are counted without wrap-around (R34). -/
theorem Limit.contains_up_iff {limit : BitVec 32} {off n : Nat} (hn : 0 < n) :
    (Limit.up limit).contains off n = true ↔ ∀ k, k < n → off + k ≤ limit.toNat := by
  simp only [Limit.contains, decide_eq_true_eq]
  refine ⟨fun h k hk => by omega, fun h => ?_⟩
  have := h (n - 1) (by omega)
  omega

/-- The first byte decides at the bottom of an expand-down segment, the last byte at its top (R34). -/
theorem Limit.contains_down_iff {limit : BitVec 32} {big : Bool} {off n : Nat} (hn : 0 < n) :
    (Limit.down limit big).contains off n = true ↔
      ∀ k, k < n → limit.toNat < off + k ∧ off + k ≤ if big = true then 0xFFFFFFFF else 0xFFFF := by
  simp only [Limit.contains, Bool.and_eq_true, decide_eq_true_eq]
  generalize (if big = true then 0xFFFFFFFF else 0xFFFF) = top
  refine ⟨fun h k hk => by omega, fun h => ?_⟩
  have hfirst := h 0 hn
  have hlast := h (n - 1) (by omega)
  omega

end Sys2Proof

namespace Sys2Proof.Machine

section
variable {s : State} {r : Sreg} {off : Word} {n : Nat} {acc : Access} {a b : Option Exception} {e : Exception}

/-! ## Each check -/

theorem State.zeroCode_of_real (hm : s.mode = .real) : s.zeroCode = none := by simp [State.zeroCode, hm]

theorem State.zeroCode_of_ne_real (hm : s.mode ≠ .real) : s.zeroCode = some 0 := by simp [State.zeroCode, hm]

theorem State.outside_ss : s.outside .ss = .ss s.zeroCode := rfl

theorem State.outside_ne_ss (hr : r ≠ .ss) : s.outside r = s.gp0 := if_neg hr

theorem State.limitFault_of_outside (h : (s.sreg r).hidden.limit.contains off.toNat n = false) :
    s.limitFault r off n = some (s.outside r) := by
  simp [State.limitFault, h]

theorem State.nullFault_of_null (hr : r = .ds ∨ r = .es ∨ r = .fs ∨ r = .gs) (h : (s.sreg r).sel.toNat < 4) :
    s.nullFault r = some s.gp0 := by
  have hnull : isNull (s.sreg r).sel = true := (isNull_iff _).2 h
  rcases hr with rfl | rfl | rfl | rfl <;> exact if_pos hnull

theorem State.writeFault_read : s.writeFault r .read = none := rfl

theorem State.writeFault_of_readOnly
    (h : (s.sreg r).hidden.kind = .code ∨ ((s.sreg r).hidden.kind = .data ∧ (s.sreg r).hidden.writable = false)) :
    s.writeFault r .write = some s.gp0 := by
  rcases h with hcode | ⟨hdata, hro⟩
  · simp [State.writeFault, hcode]
  · simp [State.writeFault, hdata, hro]

theorem State.writeFault_of_writable (hdata : (s.sreg r).hidden.kind = .data) (hw : (s.sreg r).hidden.writable = true) :
    s.writeFault r acc = none := by
  cases acc <;> simp [State.writeFault, hdata, hw]

theorem State.canonicalFault_eq_none_iff :
    s.canonicalFault r off n = none ↔
      ∀ k, s.par.vaBits - 1 ≤ k → k < 64 →
        (s.linear r off).getLsbD k = (s.linear r off).getLsbD 63
          ∧ (s.linear r off + BitVec.ofNat 64 (n - 1)).getLsbD k
            = (s.linear r off + BitVec.ofNat 64 (n - 1)).getLsbD 63 := by
  simp only [State.canonicalFault, ite_eq_left_iff, reduceCtorEq, imp_false, not_not, Bool.and_eq_true, canonical_iff]
  exact ⟨fun ⟨hfirst, hlast⟩ k hva hk => ⟨hfirst k hva hk, hlast k hva hk⟩,
    fun h => ⟨fun k hva hk => (h k hva hk).1, fun k hva hk => (h k hva hk).2⟩⟩

theorem State.canonicalFault_of_ne_none (h : s.canonicalFault r off n ≠ none) :
    s.canonicalFault r off n = some (s.outside r) := by
  unfold State.canonicalFault at h ⊢
  split
  · rename_i hc
    exact absurd (if_pos hc) h
  · rfl

/-! ## Which of two checks is reported (R70, D8) -/

theorem State.eitherFault_none_left : s.eitherFault none b = b := rfl

theorem State.eitherFault_none_right : s.eitherFault a none = a := by cases a <;> rfl

theorem State.eitherFault_some_some {d : Exception} :
    s.eitherFault (some d) (some e) = some d ∨ s.eitherFault (some d) (some e) = some e := by
  unfold State.eitherFault
  cases Config.drawBit s.draws
  · exact .inr rfl
  · exact .inl rfl

/-- Two checks that can report one exception only report it when one of them fails. -/
theorem State.eitherFault_eq_some (ha : a = none ∨ a = some e) (hb : b = none ∨ b = some e)
    (h : a = some e ∨ b = some e) : s.eitherFault a b = some e := by
  rcases ha with rfl | rfl
  · exact h.resolve_left nofun
  · rcases hb with rfl | rfl
    · rfl
    · exact State.eitherFault_some_some.elim id id

theorem State.eitherFault_cases (ha : a = none ∨ a = some e) (hb : b = none ∨ b = some e) :
    s.eitherFault a b = none ∨ s.eitherFault a b = some e := by
  rcases ha with rfl | rfl
  · exact hb
  · exact .inr (State.eitherFault_eq_some (.inr rfl) hb (.inl rfl))

/-! ## Stage 1 by mode (R70) -/

theorem State.segFault_of_real_or_v86 (hm : s.mode = .real ∨ s.mode = .v86) :
    s.segFault r off n acc = s.limitFault r off n := by
  rcases hm with hm | hm <;> simp [State.segFault, hm]

theorem State.segFault_of_long64 (hm : s.mode = .long64) : s.segFault r off n acc = s.canonicalFault r off n := by
  simp [State.segFault, hm]

theorem State.segFault_of_prot_or_compat (hm : s.mode = .prot ∨ s.mode = .compat) :
    s.segFault r off n acc =
      s.eitherFault (s.eitherFault (s.nullFault r) (s.limitFault r off n)) (s.writeFault r acc) := by
  rcases hm with hm | hm <;> simp [State.segFault, hm]

/-- SS has no NULL check in stage 1 (R67). -/
theorem State.segFault_ss (hm : s.mode = .prot ∨ s.mode = .compat) :
    s.segFault .ss off n acc = s.eitherFault (s.limitFault .ss off n) (s.writeFault .ss acc) :=
  State.segFault_of_prot_or_compat hm

/-- Through a segment other than SS the three checks of PROT and COMPAT report #GP(0), whichever of them fails. -/
theorem State.segFault_of_ne_ss (hm : s.mode = .prot ∨ s.mode = .compat) (hr : r ≠ .ss)
    (h : s.nullFault r = some s.gp0 ∨ s.limitFault r off n = some s.gp0 ∨ s.writeFault r acc = some s.gp0) :
    s.segFault r off n acc = some s.gp0 := by
  have hnull : s.nullFault r = none ∨ s.nullFault r = some s.gp0 := (nullFault_cases s r).imp_right And.left
  have hlimit : s.limitFault r off n = none ∨ s.limitFault r off n = some s.gp0 :=
    (limitFault_cases s r off n).imp_right fun hf => State.outside_ne_ss hr ▸ hf.1
  rw [State.segFault_of_prot_or_compat hm]
  refine State.eitherFault_eq_some (State.eitherFault_cases hnull hlimit) (writeFault_cases s r acc) ?_
  exact (or_assoc.2 h).imp_left (State.eitherFault_eq_some hnull hlimit)

/-! ## The access -/

theorem State.access_of_segFault (h : s.segFault r off n acc = some e) :
    s.access r off n acc = .error (.exception e) := by
  simp only [State.access, h]

theorem State.unreadable_of_long64 (hm : s.mode = .long64) : s.unreadable r acc = false := by
  simp [State.unreadable, hm]

/-- In REAL and V86 the limit is the only check of stage 1 (R66). -/
theorem State.access_of_outside_real_or_v86 (hm : s.mode = .real ∨ s.mode = .v86)
    (hlimit : (s.sreg r).hidden.limit.contains off.toNat n = false) :
    s.access r off n acc = .error (.exception (s.outside r)) :=
  State.access_of_segFault ((State.segFault_of_real_or_v86 hm).trans (State.limitFault_of_outside hlimit))

/-- In LONG64 a first or last byte that is not canonical is the exception of a byte outside its segment (R69). -/
theorem State.access_of_not_canonical (hm : s.mode = .long64) (h : s.canonicalFault r off n ≠ none) :
    s.access r off n acc = .error (.exception (s.outside r)) :=
  State.access_of_segFault ((State.segFault_of_long64 hm).trans (State.canonicalFault_of_ne_none h))

theorem State.access_of_ne_ss (hm : s.mode = .prot ∨ s.mode = .compat) (hr : r ≠ .ss)
    (h : s.nullFault r = some s.gp0 ∨ s.limitFault r off n = some s.gp0 ∨ s.writeFault r acc = some s.gp0) :
    s.access r off n acc = .error (.exception s.gp0) :=
  State.access_of_segFault (State.segFault_of_ne_ss hm hr h)

theorem State.access_of_outside_ss (hm : s.mode = .prot ∨ s.mode = .compat)
    (hlimit : (s.sreg .ss).hidden.limit.contains off.toNat n = false) (hwrite : s.writeFault .ss acc = none) :
    s.access .ss off n acc = .error (.exception (.ss s.zeroCode)) := by
  apply State.access_of_segFault
  rw [State.segFault_ss hm, State.limitFault_of_outside hlimit, hwrite, State.eitherFault_none_right, State.outside_ss]

/-- A write through SS that its permission forbids is #GP(0), or the #SS(0) of its limit where that fails too (R70, D8). -/
theorem State.access_of_readOnly_ss (hm : s.mode = .prot ∨ s.mode = .compat)
    (hwrite : s.writeFault .ss acc = some s.gp0) :
    s.access .ss off n acc = .error (.exception s.gp0)
      ∨ ((s.sreg .ss).hidden.limit.contains off.toNat n = false
        ∧ s.access .ss off n acc = .error (.exception (.ss s.zeroCode))) := by
  have hseg : s.segFault .ss off n acc = s.eitherFault (s.limitFault .ss off n) (some s.gp0) := by
    rw [State.segFault_ss hm, hwrite]
  rcases limitFault_cases s .ss off n with hin | ⟨hout, hlimit⟩
  · rw [hin, State.eitherFault_none_left] at hseg
    exact .inl (State.access_of_segFault hseg)
  · rw [hout, State.outside_ss] at hseg
    rcases State.eitherFault_some_some (s := s) (d := .ss s.zeroCode) (e := s.gp0) with hd | hd
    · exact .inr ⟨hlimit, State.access_of_segFault (hseg.trans hd)⟩
    · exact .inl (State.access_of_segFault (hseg.trans hd))

end

/-- Settles O11: the canonical check is the only segment-level check of LONG64 (R69). -/
theorem accessInLong64 : Obligations.AccessInLong64 := by
  intro s r off n acc phys hm hcanonical haligned hpage hmapped
  have hseg : s.segFault r off n acc = none :=
    (State.segFault_of_long64 hm).trans (State.canonicalFault_eq_none_iff.2 hcanonical)
  have hstage : s.pageStage (s.linear r off) n acc = .ok phys :=
    pageStage_of_checks s _ n acc phys haligned hpage (by simp [hm])
  exact access_of_checks s r off n acc phys hseg (State.unreadable_of_long64 hm) hstage hmapped

/-- Settles O12: in each mode the failing check is the exception of stage 1, which is the access's. -/
theorem segmentFaults : Obligations.SegmentFaults := by
  refine ⟨fun limit big off n hn => ⟨Limit.contains_up_iff hn, Limit.contains_down_iff hn⟩,
    fun s r off n acc => ⟨fun hm hlimit => ?real, fun hm hlimit => ?v86, fun hm => ?segmented,
      fun hm ⟨k, hva, hk, hne⟩ => ?long64⟩⟩
  case real =>
    rw [State.access_of_outside_real_or_v86 (.inl hm) hlimit, State.outside, State.zeroCode_of_real hm]
  case v86 =>
    rw [State.access_of_outside_real_or_v86 (.inr hm) hlimit, State.outside, State.zeroCode_of_ne_real (by simp [hm])]
  case segmented =>
    have hcode : s.zeroCode = some 0 := State.zeroCode_of_ne_real (by rcases hm with hm | hm <;> simp [hm])
    have hgp : s.gp0 = .gp (some 0) := congrArg _ hcode
    rw [← hgp, ← hcode]
    refine ⟨fun hr hsel => ?null, fun hr hlimit => ?limit, fun hr hacc hlimit => ?readSS, fun hacc hro => ?permission,
      fun hr _ hdata hwritable hlimit => ?writeSS⟩
    case null =>
      have hne : r ≠ .ss := by rcases hr with rfl | rfl | rfl | rfl <;> exact nofun
      exact State.access_of_ne_ss hm hne (.inl (State.nullFault_of_null hr hsel))
    case limit =>
      exact State.access_of_ne_ss hm hr (.inr (.inl (State.outside_ne_ss hr ▸ State.limitFault_of_outside hlimit)))
    case readSS =>
      subst hr hacc
      exact State.access_of_outside_ss hm hlimit State.writeFault_read
    case permission =>
      subst hacc
      have hwrite := State.writeFault_of_readOnly hro
      by_cases hr : r = .ss
      · subst hr
        exact (State.access_of_readOnly_ss hm hwrite).imp_right fun hss => ⟨rfl, hss⟩
      · exact .inl (State.access_of_ne_ss hm hr (.inr (.inr hwrite)))
    case writeSS =>
      subst hr
      exact State.access_of_outside_ss hm hlimit (State.writeFault_of_writable hdata hwritable)
  case long64 =>
    have hfault : s.canonicalFault r off n ≠ none := fun hnone => by
      obtain ⟨hfirst, hlast⟩ := State.canonicalFault_eq_none_iff.1 hnone k hva hk
      exact hne.elim (fun h => h hfirst) fun h => h hlast
    rw [State.access_of_not_canonical hm hfault, State.outside, State.zeroCode_of_ne_real (by simp [hm])]

end Sys2Proof.Machine
end

section
/-! PROOF. Effective addresses, linear addresses and the segment of a memory operand (20_memory.md R62 to R65; 30_encoding.md
R105, R108 to R118, R121): offsets are sums of 64-bit words, compared with sums of integers modulo 2 to the address size. -/

namespace Sys2Proof

/-! ## Sums modulo the address size -/

/-- The number of bits of an address size (R113). -/
def AddrSize.bits : AddrSize → Nat
  | .a16 => 16
  | .a32 => 32
  | .a64 => 64

/-- A word stands for an integer where offsets are counted modulo 2 to the address size (R62). -/
def AddrSize.standsFor (a : AddrSize) (v : Word) (z : ℤ) : Prop := (v.toNat : ℤ) ≡ z [ZMOD 2 ^ a.bits]

theorem AddrSize.modulus_dvd (a : AddrSize) : (2 : ℤ) ^ a.bits ∣ 2 ^ 64 :=
  pow_dvd_pow 2 (by cases a <;> decide)

theorem AddrSize.wrap_toNat (a : AddrSize) (v : Word) : (a.wrap v).toNat = v.toNat % 2 ^ a.bits := by
  cases a with
  | a16 => simp [AddrSize.wrap, AddrSize.bits, Width.trunc]; omega
  | a32 => simp [AddrSize.wrap, AddrSize.bits, Width.trunc]; omega
  | a64 => exact (Nat.mod_eq_of_lt v.isLt).symm

section
variable {a : AddrSize} {u v : Word} {y z : ℤ}

theorem AddrSize.standsFor_toNat : a.standsFor v v.toNat := Int.ModEq.refl _

/-- A word that is a number modulo 2^64 stands for it, whatever the address size. -/
theorem AddrSize.standsFor_of_toNat_eq {n : Nat} (h : v.toNat = n % 2 ^ 64) : a.standsFor v n := by
  have hmod : ((n % 2 ^ 64 : Nat) : ℤ) ≡ n [ZMOD 2 ^ 64] := by
    exact_mod_cast Nat.mod_modEq n (2 ^ 64)
  rw [AddrSize.standsFor, h]
  exact hmod.of_dvd a.modulus_dvd

theorem AddrSize.standsFor_toInt : a.standsFor v v.toInt := by
  have hmod : (v.toNat : ℤ) ≡ v.toInt [ZMOD 2 ^ 64] := by
    rw [BitVec.toInt_eq_toNat_bmod]
    exact (Int.bmod_emod).symm
  exact hmod.of_dvd a.modulus_dvd

theorem AddrSize.standsFor.add (hu : a.standsFor u y) (hv : a.standsFor v z) : a.standsFor (u + v) (y + z) := by
  have hsum : a.standsFor (u + v) (u.toNat + v.toNat : Nat) := AddrSize.standsFor_of_toNat_eq (BitVec.toNat_add u v)
  exact hsum.trans (by simpa using Int.ModEq.add hu hv)

theorem AddrSize.standsFor.shiftLeft (hv : a.standsFor v z) (k : Nat) : a.standsFor (v <<< k) (z * 2 ^ k) := by
  have hshift : a.standsFor (v <<< k) (v.toNat * 2 ^ k : Nat) :=
    AddrSize.standsFor_of_toNat_eq (by rw [BitVec.toNat_shiftLeft, Nat.shiftLeft_eq])
  exact hshift.trans (by simpa using Int.ModEq.mul_right (2 ^ k) hv)

/-- A wrapped offset is the integer it stands for, modulo 2 to the address size. -/
theorem AddrSize.standsFor.wrap_eq (hv : a.standsFor v z) : ((a.wrap v).toNat : ℤ) = z % 2 ^ a.bits := by
  rw [AddrSize.wrap_toNat]
  exact_mod_cast hv

theorem AddrSize.standsFor.wrap (hv : a.standsFor v z) : a.standsFor (a.wrap v) z := by
  rw [AddrSize.standsFor, hv.wrap_eq]
  exact Int.mod_modEq z _

end

/-! ## Displacements and direct offsets -/

theorem Disp16.value_none_toInt : Disp16.none.value.toInt = 0 := rfl

theorem Disp16.value_d8_toInt (v : BitVec 8) : (Disp16.d8 v).value.toInt = v.toInt :=
  BitVec.toInt_signExtend_of_le (by decide)

theorem Disp16.value_d16_toInt (v : BitVec 16) : (Disp16.d16 v).value.toInt = v.toInt :=
  BitVec.toInt_signExtend_of_le (by decide)

theorem Disp32.value_none_toInt : Disp32.none.value.toInt = 0 := rfl

theorem Disp32.value_d8_toInt (v : BitVec 8) : (Disp32.d8 v).value.toInt = v.toInt :=
  BitVec.toInt_signExtend_of_le (by decide)

theorem Disp32.value_d32_toInt (v : BitVec 32) : (Disp32.d32 v).value.toInt = v.toInt :=
  BitVec.toInt_signExtend_of_le (by decide)

theorem Moffs.value_o16_toNat (v : BitVec 16) : (Moffs.o16 v).value.toNat = v.toNat :=
  BitVec.toNat_setWidth_of_le (by decide)

theorem Moffs.value_o32_toNat (v : BitVec 32) : (Moffs.o32 v).value.toNat = v.toNat :=
  BitVec.toNat_setWidth_of_le (by decide)

/-- A 32-bit displacement without a base stands for its signed value (R116, R117). -/
theorem AddrSize.standsFor_signExtend {a : AddrSize} (v : BitVec 32) : a.standsFor (v.signExtend 64) v.toInt := by
  rw [← BitVec.toInt_signExtend_of_le (v := 64) (x := v) (by decide)]
  exact AddrSize.standsFor_toInt

/-! ## Register numbers -/

/-- A REX bit is bit 3 of a register number (R108). -/
theorem extend_toNat (bit : Bool) (low : BitVec 3) : (extend bit low).toNat = 8 * bit.toNat + low.toNat := by
  revert bit low
  decide

/-- The REX bits that count: those of the REX byte in force, all 0 without one (R108). -/
def Prefixes.rexBits (p : Prefixes) : Rex := p.rex.getD { w := false, r := false, x := false, b := false }

theorem Prefixes.rexR_eq (p : Prefixes) : p.rexR = p.rexBits.r := by
  unfold Prefixes.rexR Prefixes.rexBits
  cases p.rex <;> rfl

theorem Prefixes.rexB_eq (p : Prefixes) : p.rexB = p.rexBits.b := by
  unfold Prefixes.rexB Prefixes.rexBits
  cases p.rex <;> rfl

theorem Prefixes.rexX_eq (p : Prefixes) : p.rexX = p.rexBits.x := by
  unfold Prefixes.rexX Prefixes.rexBits
  cases p.rex <;> rfl

theorem Prefixes.hasRex_iff (p : Prefixes) : p.hasRex = true ↔ p.rex ≠ none := Option.isSome_iff_ne_none

/-! ## Sizes -/

theorem Prefixes.rexW_iff (p : Prefixes) : p.rexW = true ↔ ∃ q, p.rex = some q ∧ q.w = true := by
  unfold Prefixes.rexW
  cases p.rex <;> simp

theorem Prefixes.hasOpSize_iff (p : Prefixes) : p.hasOpSize = true ↔ .opSize ∈ p.pre := List.contains_iff_mem

theorem Prefixes.hasAddrSize_iff (p : Prefixes) : p.hasAddrSize = true ↔ .addrSize ∈ p.pre := List.contains_iff_mem

/-- Whether the default size of operands and addresses is 32 bits (R36); outside LONG64 it is 16 bits otherwise. -/
def Ctx.default32 (c : Ctx) : Prop := (c.mode = .prot ∨ c.mode = .compat) ∧ c.csD = .bits32

/-- Under a default size of 32 bits a 66H or 67H byte selects 16 bits (R112, R113). -/
theorem sizes_of_default32 {c : Ctx} {p : Prefixes} (h : c.default32) :
    opSize c p = (if p.hasOpSize = true then .b16 else .b32)
      ∧ addrSize c p = if p.hasAddrSize = true then .a16 else .a32 := by
  obtain ⟨hm | hm, hd⟩ := h <;> simp [opSize, addrSize, hm, hd]

/-- Under a default size of 16 bits a 66H or 67H byte selects 32 bits (R112, R113). -/
theorem sizes_of_default16 {c : Ctx} {p : Prefixes} (hm : c.mode ≠ .long64) (h : ¬ c.default32) :
    opSize c p = (if p.hasOpSize = true then .b32 else .b16)
      ∧ addrSize c p = if p.hasAddrSize = true then .a32 else .a16 := by
  obtain ⟨mode, csD⟩ := c
  cases mode with
  | real | v86 => exact ⟨rfl, rfl⟩
  | prot | compat => cases csD with
    | bits16 => exact ⟨rfl, rfl⟩
    | bits32 => simp [Ctx.default32] at h
  | long64 => exact absurd rfl hm

/-- In LONG64 REX.W selects 64-bit operands, and a 67H byte 32-bit addresses (R112, R113). -/
theorem sizes_of_long64 {c : Ctx} {p : Prefixes} (hm : c.mode = .long64) :
    opSize c p = (if p.rexW = true then .b64 else if p.hasOpSize = true then .b16 else .b32)
      ∧ addrSize c p = if p.hasAddrSize = true then .a32 else .a64 := by
  simp [opSize, addrSize, hm]

/-! ## Segment overrides -/

theorem Prefixes.mem_overrides {p : Prefixes} {r : Sreg} : r ∈ p.overrides ↔ .segOverride r ∈ p.pre := by
  simp only [Prefixes.overrides, List.mem_filterMap, List.mem_reverse]
  constructor
  · rintro ⟨q, hq, hr⟩
    split at hr
    · cases hr
      exact hq
    · cases hr
  · exact fun h => ⟨_, h, rfl⟩

/-- The overrides behind one of them in the bytes stand in front of it, for the last byte is the first (R105). -/
theorem Prefixes.overrides_split {p : Prefixes} {before after : List Prefix} {q : Sreg}
    (h : p.pre = before ++ .segOverride q :: after) :
    ∃ later earlier, p.overrides = later ++ q :: earlier ∧ ∀ r ∈ later, .segOverride r ∈ after := by
  refine ⟨({ p with pre := after } : Prefixes).overrides, ({ p with pre := before } : Prefixes).overrides, ?_,
    fun r hr => Prefixes.mem_overrides.1 hr⟩
  simp [Prefixes.overrides, h, List.filterMap_append]

/-! ## The default segment (R63, R115, R116, R118) -/

/-- The operands with rBP or rSP as their base register (R63). -/
def MemForm.onStack (p : Prefixes) (m : MemForm) : Prop :=
  (∃ rm d, m = .regs16 rm d ∧ (rm = 2 ∨ rm = 3 ∨ rm = 6))
    ∨ (∃ rm d, m = .based rm d ∧ p.rmNum rm = 5)
    ∨ ∃ scale index base d, m = .sib scale index base d ∧ (p.rmNum base = 4 ∨ p.rmNum base = 5)

theorem MemForm.defaultSeg_of_onStack {p : Prefixes} {m : MemForm} (h : m.onStack p) : m.defaultSeg p = .ss := by
  rcases h with ⟨rm, d, rfl, hrm⟩ | ⟨rm, d, rfl, hrm⟩ | ⟨scale, index, base, d, rfl, hbase⟩
  · exact if_pos hrm
  · exact if_pos hrm
  · exact if_pos hbase

theorem MemForm.defaultSeg_of_not_onStack {p : Prefixes} {m : MemForm} (h : ¬ m.onStack p) : m.defaultSeg p = .ds := by
  cases m with
  | regs16 rm d => exact if_neg fun hrm => h (.inl ⟨rm, d, rfl, hrm⟩)
  | based rm d => exact if_neg fun hrm => h (.inr (.inl ⟨rm, d, rfl, hrm⟩))
  | sib scale index base d => exact if_neg fun hbase => h (.inr (.inr ⟨scale, index, base, d, rfl, hbase⟩))
  | abs16 | disp32 | sibNoBase => rfl

end Sys2Proof

namespace Sys2Proof.Machine

section
variable {s : State} {p : Prefixes} {len : Nat} {a : AddrSize}

/-! ## Effective addresses -/

/-- A scaled index stands for the register times 2 to the scale, and for 0 where the number is 4 (R116). -/
theorem State.scaledIndex_standsFor (i : BitVec 4) (scale : BitVec 2) :
    a.standsFor (s.scaledIndex a i scale) ((if i = 4 then 0 else (s.reg i).toNat * 2 ^ scale.toNat : Nat) : ℤ) := by
  unfold State.scaledIndex
  split
  · exact AddrSize.standsFor_toNat
  · have hshift := (AddrSize.standsFor_toNat (a := a) (v := s.reg i)).wrap.shiftLeft scale.toNat
    exact_mod_cast hshift

theorem State.memOffset_based (ha : addrSize s.ctx p = a) (rm : BitVec 3) (d : Disp32) :
    ((s.memOffset p len (.based rm d)).toNat : ℤ) = ((s.reg (p.rmNum rm)).toNat + d.value.toInt) % 2 ^ a.bits := by
  subst ha
  exact (AddrSize.standsFor_toNat.add AddrSize.standsFor_toInt).wrap_eq

theorem State.memOffset_sib (ha : addrSize s.ctx p = a) (scale : BitVec 2) (index base : BitVec 3) (d : Disp32) :
    ((s.memOffset p len (.sib scale index base d)).toNat : ℤ) =
      ((s.reg (p.rmNum base)).toNat
        + ((if p.indexNum index = 4 then 0 else (s.reg (p.indexNum index)).toNat * 2 ^ scale.toNat : Nat) : ℤ)
        + d.value.toInt) % 2 ^ a.bits := by
  subst ha
  exact ((AddrSize.standsFor_toNat.wrap.add (s.scaledIndex_standsFor _ scale)).add AddrSize.standsFor_toInt).wrap_eq

theorem State.memOffset_sibNoBase (ha : addrSize s.ctx p = a) (scale : BitVec 2) (index : BitVec 3) (v : BitVec 32) :
    ((s.memOffset p len (.sibNoBase scale index v)).toNat : ℤ) =
      (((if p.indexNum index = 4 then 0 else (s.reg (p.indexNum index)).toNat * 2 ^ scale.toNat : Nat) : ℤ)
        + v.toInt) % 2 ^ a.bits := by
  subst ha
  exact ((s.scaledIndex_standsFor _ scale).add (AddrSize.standsFor_signExtend v)).wrap_eq

/-- RIP-relative: from the address behind the instruction (R117). -/
theorem State.memOffset_disp32_of_long64 (ha : addrSize s.ctx p = a) (hm : s.mode = .long64) (v : BitVec 32) :
    ((s.memOffset p len (.disp32 v)).toNat : ℤ) = (s.pc.toNat + len + v.toInt) % 2 ^ a.bits := by
  subst ha
  have hlen : (addrSize s.ctx p).standsFor (BitVec.ofNat 64 len) len :=
    AddrSize.standsFor_of_toNat_eq (BitVec.toNat_ofNat len 64)
  have hoff : s.memOffset p len (.disp32 v) =
      (addrSize s.ctx p).wrap (s.pc + BitVec.ofNat 64 len + v.signExtend 64) := if_pos hm
  rw [hoff]
  exact ((AddrSize.standsFor_toNat.add hlen).add (AddrSize.standsFor_signExtend v)).wrap_eq

/-- Outside LONG64 the displacement is the offset (R115). -/
theorem State.memOffset_disp32_of_ne_long64 (hm : s.mode ≠ .long64) (v : BitVec 32) :
    (s.memOffset p len (.disp32 v)).toNat = v.toNat := by
  have hoff : s.memOffset p len (.disp32 v) = v.setWidth 64 := if_neg hm
  rw [hoff, BitVec.toNat_setWidth_of_le (by decide)]

/-- What the registers of a 16-bit form add up to (R118): BX is 3, BP 5, SI 6, DI 7. -/
def State.sum16 (s : State) : List (BitVec 3 × Nat) :=
  [(0, (s.reg 3).toNat + (s.reg 6).toNat), (1, (s.reg 3).toNat + (s.reg 7).toNat),
    (2, (s.reg 5).toNat + (s.reg 6).toNat), (3, (s.reg 5).toNat + (s.reg 7).toNat), (4, (s.reg 6).toNat),
    (5, (s.reg 7).toNat), (6, (s.reg 5).toNat), (7, (s.reg 3).toNat)]

theorem State.regs16_standsFor {rm : BitVec 3} {sum : Nat} (h : (rm, sum) ∈ s.sum16) :
    a.standsFor (s.regs16 rm) sum := by
  have two : ∀ i j : BitVec 4, a.standsFor (s.reg i + s.reg j) ((s.reg i).toNat + (s.reg j).toNat : Nat) := fun i j =>
    AddrSize.standsFor_of_toNat_eq (BitVec.toNat_add _ _)
  simp only [State.sum16, List.mem_cons, Prod.mk.injEq, List.not_mem_nil, or_false] at h
  rcases h with ⟨rfl, rfl⟩ | ⟨rfl, rfl⟩ | ⟨rfl, rfl⟩ | ⟨rfl, rfl⟩ | ⟨rfl, rfl⟩ | ⟨rfl, rfl⟩ | ⟨rfl, rfl⟩ | ⟨rfl, rfl⟩
  · exact two 3 6
  · exact two 3 7
  · exact two 5 6
  · exact two 5 7
  all_goals exact AddrSize.standsFor_toNat

theorem State.memOffset_regs16 {rm : BitVec 3} {sum : Nat} (h : (rm, sum) ∈ s.sum16) (d : Disp16) :
    ((s.memOffset p len (.regs16 rm d)).toNat : ℤ) = (sum + d.value.toInt) % 2 ^ 16 :=
  ((State.regs16_standsFor (a := .a16) h).add AddrSize.standsFor_toInt).wrap_eq

theorem State.memOffset_abs16 (v : BitVec 16) : (s.memOffset p len (.abs16 v)).toNat = v.toNat :=
  BitVec.toNat_setWidth_of_le (by decide)

/-! ## The segment of an operand (R105) -/

theorem State.segOf_of_ne_long64 {dflt : Sreg} (hm : s.mode ≠ .long64) :
    s.segOf p dflt = p.overrides.head?.getD dflt := if_neg hm

/-- The override that counts in LONG64 is one of FS or GS. -/
theorem find_fs_gs_eq_none {l : List Sreg} (hfs : .fs ∉ l) (hgs : .gs ∉ l) :
    (l.find? fun r => decide (r = .fs ∨ r = .gs)) = none := by
  rw [List.find?_eq_none]
  intro r hr
  rw [decide_eq_true_eq]
  rintro (rfl | rfl)
  · exact hfs hr
  · exact hgs hr

theorem State.segOf_of_long64 {dflt : Sreg} (hm : s.mode = .long64) :
    s.segOf p dflt = (p.overrides.find? fun r => decide (r = .fs ∨ r = .gs)).getD dflt := if_pos hm

end

/-! ## Linear addresses -/

theorem State.segBase_of_ne_long64 {s : State} (hm : s.mode ≠ .long64) (r : Sreg) :
    s.segBase r = (s.sreg r).hidden.base := if_neg hm

theorem State.segBase_fs_gs {s : State} {r : Sreg} (hr : r = .fs ∨ r = .gs) : s.segBase r = (s.sreg r).hidden.base := by
  unfold State.segBase
  rcases hr with rfl | rfl <;> exact ite_self _

theorem State.segBase_of_long64 {s : State} {r : Sreg} (hm : s.mode = .long64) (hfs : r ≠ .fs) (hgs : r ≠ .gs) :
    s.segBase r = 0 := by
  unfold State.segBase
  rw [if_pos hm]
  split
  · exact absurd rfl hfs
  · exact absurd rfl hgs
  · rfl

/-- Settles O7: the base is added, and the sum cut to the width of a linear address. -/
theorem linearAddress : Obligations.LinearAddress := by
  intro s r off
  refine ⟨fun hm => ?_, fun hm hr => ?_, fun hm hfs hgs => ?_⟩
  · rw [State.linear, linWrap_toNat, if_neg hm, State.segBase_of_ne_long64 hm, BitVec.toNat_add]
    exact Nat.mod_mod_of_dvd _ (pow_dvd_pow 2 (by decide))
  · rw [State.linear, State.linWrap, if_pos hm, State.segBase_fs_gs hr, BitVec.toNat_add]
  · rw [State.linear, State.linWrap, if_pos hm, State.segBase_of_long64 hm hfs hgs, zero_add]

/-- Settles O8: overrides are listed last byte first, so the first of the list with effect is the last of the bytes. -/
theorem segmentChoice : Obligations.SegmentChoice := by
  refine ⟨fun s p dflt q before after => ⟨fun hm hpre hlast => ?last, fun hm hno => ?none,
    fun hm hpre hq hfs hgs => ?lastLong, fun hm hfs hgs => ?noneLong⟩, fun p m =>
    ⟨MemForm.defaultSeg_of_onStack, MemForm.defaultSeg_of_not_onStack⟩⟩
  case last =>
    obtain ⟨later, earlier, hsplit, hlater⟩ := Prefixes.overrides_split hpre
    obtain rfl : later = [] := List.eq_nil_iff_forall_not_mem.2 fun r hr => hlast r (hlater r hr)
    rw [State.segOf_of_ne_long64 hm, hsplit]
    rfl
  case none =>
    have hnil : p.overrides = [] :=
      List.eq_nil_iff_forall_not_mem.2 fun r hr => hno r (Prefixes.mem_overrides.1 hr)
    rw [State.segOf_of_ne_long64 hm, hnil]
    rfl
  case lastLong =>
    obtain ⟨later, earlier, hsplit, hlater⟩ := Prefixes.overrides_split hpre
    have hskip := find_fs_gs_eq_none (fun h => hfs (hlater _ h)) (fun h => hgs (hlater _ h))
    rw [State.segOf_of_long64 hm, hsplit, List.find?_append, hskip, Option.none_or,
      List.find?_cons_of_pos (by simpa using hq)]
    rfl
  case noneLong =>
    have hskip := find_fs_gs_eq_none (fun h => hfs (Prefixes.mem_overrides.1 h))
      (fun h => hgs (Prefixes.mem_overrides.1 h))
    rw [State.segOf_of_long64 hm, hskip]
    rfl

/-- Settles O6: each offset wraps a sum of words that stands for the sum of integers. -/
theorem effectiveAddress : Obligations.EffectiveAddress := by
  refine ⟨fun s p len a ha => ?offsets, fun s p len rm d v sum _ hsum =>
    ⟨State.memOffset_regs16 hsum d, State.memOffset_abs16 v⟩, fun v8 v16 v32 v64 => ?values, fun p n => ?numbers,
    fun c p a => ⟨?operandSize, ?addressSize⟩⟩
  case offsets =>
    obtain ⟨b, hb, rfl⟩ : ∃ b, addrSize s.ctx p = b ∧ a = b.bits := by
      rcases ha with ⟨h, rfl⟩ | ⟨h, rfl⟩
      · exact ⟨.a32, h, rfl⟩
      · exact ⟨.a64, h, rfl⟩
    exact ⟨State.memOffset_based hb, State.memOffset_sib hb, State.memOffset_sibNoBase hb,
      fun v hm => State.memOffset_disp32_of_long64 hb hm v, fun v hm => State.memOffset_disp32_of_ne_long64 hm v⟩
  case values =>
    exact ⟨Disp16.value_none_toInt, Disp16.value_d8_toInt v8, Disp16.value_d16_toInt v16, Disp32.value_none_toInt,
      Disp32.value_d8_toInt v8, Disp32.value_d32_toInt v32, Moffs.value_o16_toNat v16, Moffs.value_o32_toNat v32, rfl⟩
  case numbers =>
    refine ⟨?_, ?_, ?_, p.rexR_eq, p.hasRex_iff⟩
    · rw [Prefixes.regNum, extend_toNat, p.rexR_eq]
      rfl
    · rw [Prefixes.rmNum, extend_toNat, p.rexB_eq]
      rfl
    · rw [Prefixes.indexNum, extend_toNat, p.rexX_eq]
      rfl
  case operandSize =>
    simp only [← p.rexW_iff, ← p.hasOpSize_iff]
    by_cases hm : c.mode = .long64
    · rw [(sizes_of_long64 hm).1, if_pos hm]
      split
      · rfl
      · split <;> rfl
    · rw [if_neg hm]
      by_cases hd : (c.mode = .prot ∨ c.mode = .compat) ∧ c.csD = .bits32
      · rw [(sizes_of_default32 hd).1, if_pos hd]
        split <;> rfl
      · rw [(sizes_of_default16 hm hd).1, if_neg hd]
        split <;> rfl
  case addressSize =>
    intro hmem
    have ha : a = (addrSize c p).bits := by
      simp only [List.mem_cons, Prod.mk.injEq, List.not_mem_nil, or_false] at hmem
      rcases hmem with ⟨h, rfl⟩ | ⟨h, rfl⟩ | ⟨h, rfl⟩ <;> rw [h] <;> rfl
    rw [ha]
    simp only [← p.hasAddrSize_iff]
    by_cases hm : c.mode = .long64
    · rw [(sizes_of_long64 hm).2, if_pos hm]
      split <;> rfl
    · rw [if_neg hm]
      by_cases hd : (c.mode = .prot ∨ c.mode = .compat) ∧ c.csD = .bits32
      · rw [(sizes_of_default32 hd).2, if_pos hd]
        split <;> rfl
      · rw [(sizes_of_default16 hm hd).2, if_neg hd]
        split <;> rfl

end Sys2Proof.Machine
end

section
/-! PROOF. When a data access passes outside LONG64, how one that passes stage 1 stops at alignment, paging or existence, and
that a load reads what a store to the same bytes wrote (20_memory.md R66 to R70, R73, R75, R78, R83). -/

namespace Sys2Proof.Machine

section
variable {s : State} {r : Sreg} {off lin phys : Word} {n : Nat} {acc : Access} {code : BitVec 32}

/-! ## Checks of stage 1 that pass (R66 to R68) -/

theorem State.limitFault_of_inside (h : (s.sreg r).hidden.limit.contains off.toNat n = true) :
    s.limitFault r off n = none := if_pos h

/-- The NULL check spares CS and SS, and selectors from 4 on (R67). -/
theorem State.nullFault_eq_none (h : r = .cs ∨ r = .ss ∨ 4 ≤ (s.sreg r).sel.toNat) : s.nullFault r = none := by
  rcases h with rfl | rfl | hsel
  · rfl
  · rfl
  · have hnull : ¬ isNull (s.sreg r).sel = true := fun hlt => absurd ((isNull_iff _).1 hlt) (by omega)
    cases r with
    | cs | ss => rfl
    | ds | es | fs | gs => exact if_neg hnull

theorem State.writeFault_eq_none
    (h : acc = .write → (s.sreg r).hidden.kind ≠ .code
      ∧ ((s.sreg r).hidden.kind = .data → (s.sreg r).hidden.writable = true)) :
    s.writeFault r acc = none := by
  cases acc with
  | read => exact State.writeFault_read
  | write =>
    obtain ⟨hcode, hdata⟩ := h rfl
    cases hkind : (s.sreg r).hidden.kind with
    | data => exact State.writeFault_of_writable hkind (hdata hkind)
    | code => exact absurd hkind hcode
    | other => simp [State.writeFault, hkind]

theorem State.unreadable_of_real_or_v86 (hm : s.mode = .real ∨ s.mode = .v86) : s.unreadable r acc = false := by
  rcases hm with hm | hm <;> simp [State.unreadable, hm]

/-- Only a read through a code segment that is not readable is refused (R68, N10). -/
theorem State.unreadable_of_readable
    (h : acc = .read → (s.sreg r).hidden.kind = .code → (s.sreg r).hidden.readable = true) :
    s.unreadable r acc = false := by
  unfold State.unreadable
  split
  · simpa using h rfl
  · simpa using h rfl
  · rfl

/-! ## Stage 2 (R73, R78) -/

theorem State.pageStage_of_real (hm : s.mode = .real) : s.pageStage lin n acc = .ok lin := if_pos hm

/-- An access that neither check stops goes to the physical address of PageCheck (R73). -/
theorem State.pageStage_of_aligned (hm : s.mode ≠ .real) (ha : s.misaligned lin n = false)
    (hp : s.pageCheck lin n acc = .ok phys) : s.pageStage lin n acc = .ok phys := by
  rw [State.pageStage, if_neg hm, ha, hp]

theorem State.pageStage_of_misaligned (hm : s.mode ≠ .real) (ha : s.misaligned lin n = true)
    (hp : s.pageCheck lin n acc = .ok phys) : s.pageStage lin n acc = .error .ac := by
  rw [State.pageStage, if_neg hm, ha, hp]

theorem State.pageStage_of_pageFault (hm : s.mode ≠ .real) (ha : s.misaligned lin n = false)
    (hp : s.pageCheck lin n acc = .fault code) : s.pageStage lin n acc = .error (.pf code) := by
  rw [State.pageStage, if_neg hm, ha, hp]

/-- Where both checks fail, either exception may be the one (R70, D8). -/
theorem State.pageStage_of_both (hm : s.mode ≠ .real) (ha : s.misaligned lin n = true)
    (hp : s.pageCheck lin n acc = .fault code) :
    s.pageStage lin n acc = .error .ac ∨ s.pageStage lin n acc = .error (.pf code) := by
  rw [State.pageStage, if_neg hm, ha, hp]
  cases Config.drawBit s.draws
  · exact .inr rfl
  · exact .inl rfl

/-! ## The access behind stage 1 -/

theorem State.access_of_pageStage_error {e : Exception} (hseg : s.segFault r off n acc = none)
    (hread : s.unreadable r acc = false) (h : s.pageStage (s.linear r off) n acc = .error e) :
    s.access r off n acc = .error (.exception e) := by
  simp only [State.access, hseg, hread, h, Bool.false_eq_true, if_false]

/-- A byte that does not exist is found and named (R83). -/
theorem State.access_of_unmapped (hseg : s.segFault r off n acc = none) (hread : s.unreadable r acc = false)
    (hpage : s.pageStage (s.linear r off) n acc = .ok phys)
    (h : ∃ k, k < n ∧ s.isMapped (s.byteAddr phys k) = false) :
    ∃ a, s.isMapped a = false ∧ s.access r off n acc = .error (.refusal (.unmapped a)) := by
  obtain ⟨k, hk, hbyte⟩ := h
  cases hfind : (s.byteAddrs phys n).find? fun a => !s.isMapped a with
  | none =>
    have hmem : s.byteAddr phys k ∈ s.byteAddrs phys n := List.mem_map.2 ⟨k, List.mem_range.2 hk, rfl⟩
    have hmapped := List.find?_eq_none.1 hfind _ hmem
    rw [hbyte] at hmapped
    exact absurd rfl hmapped
  | some a =>
    refine ⟨a, by simpa using List.find?_some hfind, ?_⟩
    simp only [State.access, hseg, hread, hpage, hfind, Bool.false_eq_true, if_false]

end

/-- Settles O9: the limit is the only check of REAL, and its linear address the physical one. -/
theorem accessInReal : Obligations.AccessInReal := by
  intro s r off n acc hm hlimit hmapped
  have hseg : s.segFault r off n acc = none :=
    (State.segFault_of_real_or_v86 (.inl hm)).trans (State.limitFault_of_inside hlimit)
  exact access_of_checks s r off n acc _ hseg (State.unreadable_of_real_or_v86 (.inl hm)) (State.pageStage_of_real hm)
    hmapped

/-- Settles O10: stage 1 by mode, the limit alone in V86 and the three checks of PROT and COMPAT. -/
theorem accessInProtected : Obligations.AccessInProtected := by
  intro s r off n acc phys hm hlimit hrights haligned hpage hmapped
  have hne : s.mode ≠ .real := by rcases hm with hm | hm | hm <;> simp [hm]
  have hin := State.limitFault_of_inside hlimit
  obtain ⟨hseg, hread⟩ : s.segFault r off n acc = none ∧ s.unreadable r acc = false := by
    by_cases hv86 : s.mode = .v86
    · exact ⟨(State.segFault_of_real_or_v86 (.inr hv86)).trans hin, State.unreadable_of_real_or_v86 (.inr hv86)⟩
    · obtain ⟨hnull, hwrite, hreadable⟩ := hrights hv86
      have hsegmented : s.mode = .prot ∨ s.mode = .compat := hm.imp_right fun h => h.resolve_left hv86
      refine ⟨?_, State.unreadable_of_readable hreadable⟩
      rw [State.segFault_of_prot_or_compat hsegmented, State.nullFault_eq_none hnull, hin,
        State.writeFault_eq_none hwrite]
      rfl
  exact access_of_checks s r off n acc phys hseg hread (pageStage_of_checks s _ n acc phys haligned hpage hne) hmapped

/-- Settles O13: stage 2 by which of its checks fail, and existence behind it. -/
theorem pageStageFaults : Obligations.PageStageFaults := by
  intro s r off n acc code phys hseg hread
  simp only [← misaligned_iff, Bool.not_eq_true, Bool.not_eq_false]
  refine ⟨fun hm ha hp => ?ac, fun hm ha hp => ?pf, fun hm ha hp => ?both, fun h hbyte => ?unmapped⟩
  case ac => exact State.access_of_pageStage_error hseg hread (State.pageStage_of_misaligned hm ha hp)
  case pf => exact State.access_of_pageStage_error hseg hread (State.pageStage_of_pageFault hm ha hp)
  case both =>
    exact (State.pageStage_of_both hm ha hp).imp (State.access_of_pageStage_error hseg hread)
      (State.access_of_pageStage_error hseg hread)
  case unmapped =>
    refine State.access_of_unmapped hseg hread ?_ hbyte
    rcases h with ⟨hm, rfl⟩ | ⟨hm, ha, hp⟩
    · exact State.pageStage_of_real hm
    · exact State.pageStage_of_aligned hm ha hp

/-- Settles O14: a store changes memory only, so the load finds its bytes at the addresses where the store left them. -/
theorem loadAfterStore : Obligations.LoadAfterStore := by
  intro s t r off n v phys hn hwf hstore hwrite hread
  obtain ⟨phys', hphys, -, ht⟩ := State.storeOp_eq_ok hstore
  obtain rfl : phys' = phys := Except.ok.inj (hphys.symm.trans hwrite)
  have hwritten : bytesWritten s t phys' n v := bytesWritten_writeAll s t phys' n v hn hwf (by rw [ht])
  have haddr : ∀ k, t.byteAddr phys' k = s.byteAddr phys' k := fun k => by
    rw [ht]
    rfl
  refine ⟨_, loadOp_of_access t r off n phys' hread, fun k hk => ?_⟩
  rw [bytesRead_leValue t phys' n hn k hk, haddr, hwritten.1 k hk]

end Sys2Proof.Machine
end

section
/-! PROOF. What an instruction does with its one data access (20_memory.md R80): where the access stops, or a store meets the
program text, so does the instruction (R83, R89, R162, R164, R221, R342); and what it stores goes to the bytes of that access
and nowhere else (R75, R165). -/

namespace Sys2Proof.Machine

/-! ## Accesses that stop -/

/-- Why the data access `d` lets its instruction go no further: a check of the access (R70, R71, R83), or a store whose access
passes and whose bytes overlap the program text (R89). -/
inductive DataAccess.Stops (s : State) (d : DataAccess) : Stop → Prop where
  | check {st : Stop} (h : s.access d.seg d.off d.n d.acc = .error st) : Stops s d st
  | text {phys : Word} (hacc : d.acc = .write) (hpass : s.access d.seg d.off d.n d.acc = .ok phys)
      (htext : s.hitsText (s.linear d.seg d.off) d.n = true) : Stops s d (.refusal .storeIntoText)

section
variable {s : State} {p : Prefixes} {len n : Nat} {w : Width} {rm : Rm} {off : Moffs} {d : DataAccess} {st : Stop}
  {v : Word}

theorem State.loadOp_of_stops (h : d.Stops s st) (hacc : d.acc = .read) : s.loadOp d.seg d.off d.n = .error st := by
  cases h with
  | check h =>
    rw [hacc] at h
    rw [State.loadOp, h]
  | text hwrite => cases hacc.symm.trans hwrite

theorem State.storeOp_of_stops (h : d.Stops s st) (hacc : d.acc = .write) :
    s.storeOp d.seg d.off d.n v = .error st := by
  cases h with
  | check h =>
    rw [hacc] at h
    rw [State.storeOp, h]
  | text _ hpass htext =>
    rw [hacc] at hpass
    simp only [State.storeOp, hpass, htext, if_true]

/-- An r/m operand with a data access is a memory operand, and that access is its own (R161). -/
theorem State.rmAccess_eq_some {acc : Access} (h : s.rmAccess p len n acc rm = some d) :
    ∃ m, rm = .mem m ∧ d = { seg := s.segOf p (m.defaultSeg p), off := s.memOffset p len m, n := n, acc := acc } := by
  cases rm with
  | reg r => cases h
  | mem m => exact ⟨m, rfl, (Option.some.inj h).symm⟩

theorem State.readRm_of_stops (hd : s.rmAccess p len w.bytes .read rm = some d) (h : d.Stops s st) :
    s.readRm p len w rm = .error st := by
  obtain ⟨m, rfl, rfl⟩ := State.rmAccess_eq_some hd
  exact State.loadOp_of_stops h rfl

theorem State.writeRm_of_stops (hd : s.rmAccess p len w.bytes .write rm = some d) (h : d.Stops s st) :
    s.writeRm p len w rm v = .error st := by
  obtain ⟨m, rfl, rfl⟩ := State.rmAccess_eq_some hd
  exact State.storeOp_of_stops h rfl

/-- A selector goes to two bytes of memory, whatever the operand size (R201). -/
theorem State.writeSelector_of_stops {sel : BitVec 16} (hd : s.rmAccess p len 2 .write rm = some d)
    (h : d.Stops s st) : s.writeSelector p len rm sel = .error st := by
  obtain ⟨m, rfl, -⟩ := State.rmAccess_eq_some hd
  exact State.writeRm_of_stops (w := .b16) hd h

/-! ## Instructions that stop -/

theorem moveStep_of_error (hlock : p.lock = false) {e : Except Stop State} (he : e = .error st) :
    moveStep p len s e = settle s (.error st) := by
  subst he
  rw [moveStep, hlock]
  rfl

theorem moveToRm_of_stops {reg : BitVec 3} (hlock : p.lock = false) (hd : s.rmAccess p len w.bytes .write rm = some d)
    (h : d.Stops s st) : moveToRm w p len reg rm s = settle s (.error st) :=
  moveStep_of_error hlock (State.writeRm_of_stops hd h)

theorem moveImmToRm_of_stops {imm : Word} (hlock : p.lock = false) (hd : s.rmAccess p len w.bytes .write rm = some d)
    (h : d.Stops s st) : moveImmToRm w p len rm imm s = settle s (.error st) :=
  moveStep_of_error hlock (State.writeRm_of_stops hd h)

theorem moveFromRm_of_stops {reg : BitVec 3} (hlock : p.lock = false) (hd : s.rmAccess p len w.bytes .read rm = some d)
    (h : d.Stops s st) : moveFromRm w p len reg rm s = settle s (.error st) :=
  moveStep_of_error hlock (by rw [State.readRm_of_stops hd h]; rfl)

theorem moveToMoffs_of_stops (hlock : p.lock = false) (hd : s.moffsAccess p w.bytes .write off = some d)
    (h : d.Stops s st) : moveToMoffs w p len off s = settle s (.error st) := by
  cases hd
  exact moveStep_of_error hlock (State.storeOp_of_stops h rfl)

theorem moveFromMoffs_of_stops (hlock : p.lock = false) (hd : s.moffsAccess p w.bytes .read off = some d)
    (h : d.Stops s st) : moveFromMoffs w p len off s = settle s (.error st) := by
  cases hd
  have hload := State.loadOp_of_stops h rfl
  exact moveStep_of_error hlock (congrArg (Except.map _) hload)

theorem sregOf_eq_some {g : BitVec 3} (hg : g.toNat < 6) : ∃ r, sregOf g = some r ∧ (g ≠ 1 → r ≠ .cs) := by
  revert g
  decide

theorem moveFromSreg_of_stops {g : BitVec 3} (hlock : p.lock = false) (hg : g.toNat < 6)
    (hd : s.rmAccess p len 2 .write rm = some d) (h : d.Stops s st) :
    moveFromSreg p len g rm s = settle s (.error st) := by
  obtain ⟨r, hr, -⟩ := sregOf_eq_some hg
  rw [moveFromSreg, hr]
  exact moveStep_of_error hlock (State.writeSelector_of_stops hd h)

theorem moveToSreg_of_stops {g : BitVec 3} (hlock : p.lock = false) (hg : g.toNat < 6 ∧ g ≠ 1)
    (hd : s.rmAccess p len 2 .read rm = some d) (h : d.Stops s st) :
    moveToSreg p len g rm s = settle s (.error st) := by
  obtain ⟨r, hr, hcs⟩ := sregOf_eq_some hg.1
  have hread : s.readRm p len .b16 rm = .error st := State.readRm_of_stops hd h
  cases r with
  | cs => exact absurd rfl (hcs hg.2)
  | es | ss | ds | fs | gs => simp only [moveToSreg, hlock, hr, hread, Bool.false_eq_true, if_false]

end

/-- An instruction that no #UD stops first (R163, R220) stops with its data access. -/
theorem exec_of_stops {s : State} {i : Instr} {d : DataAccess} {st : Stop} (hlock : i.prefixes.lock = false)
    (hd : s.dataAccess i = some d)
    (hfrom : ∀ p g rm, i = .movRm16Sreg p g rm ∨ i = .movRm64Sreg p g rm → g.toNat < 6)
    (hto : ∀ p g rm, i = .movSregRm16 p g rm ∨ i = .movSregRm64 p g rm → g.toNat < 6 ∧ g ≠ 1)
    (h : d.Stops s st) : exec i s = settle s (.error st) := by
  cases i with
  | movRm8R8 | movRm8R8Rex | movRm16R16 | movRm32R32 | movRm64R64 => exact moveToRm_of_stops hlock hd h
  | movR8Rm8 | movR8Rm8Rex | movR16Rm16 | movR32Rm32 | movR64Rm64 => exact moveFromRm_of_stops hlock hd h
  | movRm16Sreg => exact moveFromSreg_of_stops hlock (hfrom _ _ _ (.inl rfl)) hd h
  | movRm64Sreg => exact moveFromSreg_of_stops hlock (hfrom _ _ _ (.inr rfl)) hd h
  | movSregRm16 => exact moveToSreg_of_stops hlock (hto _ _ _ (.inl rfl)) hd h
  | movSregRm64 => exact moveToSreg_of_stops hlock (hto _ _ _ (.inr rfl)) hd h
  | movAlMoffs8 | movAlMoffs8RexW | movAxMoffs16 | movEaxMoffs32 | movRaxMoffs64 =>
    exact moveFromMoffs_of_stops hlock hd h
  | movMoffs8Al | movMoffs8AlRexW | movMoffs16Ax | movMoffs32Eax | movMoffs64Rax =>
    exact moveToMoffs_of_stops hlock hd h
  | movRm8Imm8 | movRm8Imm8Rex | movRm16Imm16 | movRm32Imm32 | movRm64Imm32 => exact moveImmToRm_of_stops hlock hd h
  | _ => cases hd

/-- A store overlaps the text when a byte of it has the linear address of a byte of the text (R89, log 9). -/
theorem State.hitsText_iff {s : State} {r : Sreg} {off : Word} {n : Nat} :
    s.hitsText (s.linear r off) n = true ↔
      ∃ k, k < n ∧ s.inText (s.linear r (off + BitVec.ofNat 64 k)) = true := by
  simp only [State.hitsText, List.any_eq_true, List.mem_range, linWrap_linear_add]

/-- Settles O23: the access and the text stop the instruction, and the text is the linear addresses of its offsets. -/
theorem dataAccessStops : Obligations.DataAccessStops := by
  refine ⟨fun s i d hlock hd hfrom hto => ⟨fun e he => ?_, fun q hq => ?_, fun phys hacc hpass htext => ?_⟩,
    fun s r off n => ?_⟩
  · exact exec_of_stops hlock hd hfrom hto (.check he)
  · exact exec_of_stops hlock hd hfrom hto (.check hq)
  · exact exec_of_stops hlock hd hfrom hto (.text hacc hpass htext)
  · simp only [State.hitsText_iff, inText_iff s _ (linWrap_linear s r _) _ rfl]
    exact ⟨fun ⟨k, hk, j, o, hj, ho, hlin⟩ => ⟨k, j, o, hk, hj, ho, hlin⟩,
      fun ⟨k, j, o, hk, hj, ho, hlin⟩ => ⟨k, hk, j, o, hj, ho, hlin⟩⟩

/-! ## What an instruction stores -/

/-- What an instruction with the data access `d` leaves of memory: what it was, or the bytes of one store of that access. -/
inductive StoredBy (s : State) (d : Option DataAccess) : Memory → Prop where
  | nothing : StoredBy s d s.mem
  | bytes (r : Sreg) (off phys v : Word) (n : Nat) (hd : d = some { seg := r, off := off, n := n, acc := .write })
      (hpass : s.access r off n .write = .ok phys) :
      StoredBy s d (s.mem.writeAll ((s.byteAddrs phys n).zip (leBytes n v)))

theorem StoredBy.wf {s : State} {d : Option DataAccess} {m : Memory} (h : StoredBy s d m) (hm : Memory.wf s.mem) :
    Memory.wf m := by
  cases h with
  | nothing => exact hm
  | bytes => exact Memory.writeAll_wf _ _ hm

/-- A byte outside the access reads as before. -/
theorem StoredBy.read_eq {s : State} {d : Option DataAccess} {m : Memory} {a : Nat} (h : StoredBy s d m)
    (hm : Memory.wf s.mem)
    (ha : ∀ e phys k, d = some e → e.acc = .write → s.access e.seg e.off e.n .write = .ok phys → k < e.n →
      a ≠ s.byteAddr phys k) : m.read a = s.mem.read a := by
  cases h with
  | nothing => rfl
  | bytes r off phys v n hd hpass =>
    refine Memory.read_writeAll_of_not_mem _ _ _ hm fun hmem => ?_
    obtain ⟨⟨_, _⟩, hzip, rfl⟩ := List.mem_map.1 hmem
    obtain ⟨k, hk, hka⟩ := List.mem_map.1 (List.of_mem_zip hzip).1
    exact ha _ phys k hd rfl hpass (List.mem_range.1 hk) hka.symm

section
variable {s u t : State} {p : Prefixes} {len : Nat} {w : Width} {rm : Rm} {off : Moffs} {d : Option DataAccess} {v : Word}

theorem State.storeOp_storedBy {r : Sreg} {o : Word} {n : Nat} (h : s.storeOp r o n v = .ok u) :
    StoredBy s (some { seg := r, off := o, n := n, acc := .write }) u.mem := by
  obtain ⟨phys, hpass, -, rfl⟩ := State.storeOp_eq_ok h
  exact .bytes r o phys v n rfl hpass

theorem State.writeRm_storedBy (h : s.writeRm p len w rm v = .ok u) :
    StoredBy s (s.rmAccess p len w.bytes .write rm) u.mem := by
  rcases State.writeRm_eq_ok h with ⟨r, rfl, rfl⟩ | ⟨m, rfl, hstore⟩
  · rw [State.regWrite_mem]
    exact .nothing
  · exact State.storeOp_storedBy hstore

/-- A selector is stored as two bytes; in a register it leaves memory alone (R201). -/
theorem State.writeSelector_storedBy {sel : BitVec 16} (h : s.writeSelector p len rm sel = .ok u) :
    StoredBy s (s.rmAccess p len 2 .write rm) u.mem := by
  unfold State.writeSelector at h
  split at h
  · exact State.writeRm_storedBy (w := .b16) h
  · split at h
    · cases h
      rw [State.selToReg32_mem]
      exact .nothing
    · exact State.writeRm_storedBy h

theorem map_regWrite_storedBy {r : Except Stop Word} {n : BitVec 4} {rex : Bool}
    (h : (r.map fun v => s.regWrite w n rex v) = .ok u) : StoredBy s d u.mem := by
  obtain ⟨v, -, rfl⟩ := except_map_eq_ok.1 h
  rw [State.regWrite_mem]
  exact .nothing

theorem moveStep_storedBy {e : Except Stop State} (he : ∀ u, e = .ok u → StoredBy s d u.mem)
    (h : moveStep p len s e = .next t) : StoredBy s d t.mem := by
  obtain ⟨-, u, hu, rfl⟩ := moveStep_eq_next.1 h
  exact he u hu

theorem moveFromSreg_storedBy {g : BitVec 3} (h : moveFromSreg p len g rm s = .next t) :
    StoredBy s (s.rmAccess p len 2 .write rm) t.mem := by
  unfold moveFromSreg at h
  split at h
  · cases h
  · exact moveStep_storedBy (fun _ => State.writeSelector_storedBy) h

theorem moveImmToReg_storedBy {r : BitVec 3} {imm : Word} (h : moveImmToReg w p len r imm s = .next t) :
    StoredBy s d t.mem := by
  refine moveStep_storedBy (fun u hu => ?_) h
  cases hu
  rw [State.regWrite_mem]
  exact .nothing

/-- A load of a segment register and a move to or from a control or debug register store nothing. -/
theorem Completion.storedBy {i : Instr} (h : Completion i s t) (hi : i.isMove = false ∨ isSegmentLoad i = true) :
    StoredBy s d t.mem := by
  have hmem : t.mem = s.mem := by
    cases h with
    | move w u hmove hload => rcases hi with hi | hi <;> simp [hmove, hload] at hi
    | segmentLoad p g rm r sel u _ _ _ hu ht =>
      obtain ⟨_, _, rfl⟩ := State.loadSeg_eq_ok hu
      subst ht
      simp
    | systemRead w n v _ _ _ ht =>
      subst ht
      simp
    | controlWrite c v u _ hu ht =>
      obtain ⟨_, _, _, _, _, _, rfl⟩ := State.crWrite_eq_ok hu
      subst ht
      simp
    | debugWrite e v u _ hu ht =>
      obtain ⟨-, rfl⟩ := State.drWrite_eq_ok.1 hu
      subst ht
      simp
  rw [hmem]
  exact .nothing

end

/-- Every instruction that completes stores at most the bytes of its data access (R80, R165). -/
theorem exec_storedBy {i : Instr} {s t : State} (h : exec i s = .next t) : StoredBy s (s.dataAccess i) t.mem := by
  cases i with
  | movRm8R8 | movRm8R8Rex | movRm16R16 | movRm32R32 | movRm64R64
  | movRm8Imm8 | movRm8Imm8Rex | movRm16Imm16 | movRm32Imm32 | movRm64Imm32 =>
    exact moveStep_storedBy (fun _ => State.writeRm_storedBy) h
  | movR8Rm8 | movR8Rm8Rex | movR16Rm16 | movR32Rm32 | movR64Rm64
  | movAlMoffs8 | movAlMoffs8RexW | movAxMoffs16 | movEaxMoffs32 | movRaxMoffs64 =>
    exact moveStep_storedBy (fun _ => map_regWrite_storedBy) h
  | movMoffs8Al | movMoffs8AlRexW | movMoffs16Ax | movMoffs32Eax | movMoffs64Rax =>
    exact moveStep_storedBy (fun _ => State.storeOp_storedBy) h
  | movRm16Sreg | movRm64Sreg => exact moveFromSreg_storedBy h
  | movR8Imm8 | movR8Imm8Rex | movR16Imm16 | movR32Imm32 | movR64Imm64 => exact moveImmToReg_storedBy h
  | movSregRm16 | movSregRm64 => exact (exec_completion h).storedBy (.inr rfl)
  | _ => exact (exec_completion h).storedBy (.inl rfl)

/-- Settles O53: what is stored goes to the bytes of the access. -/
theorem memoryFrame : Obligations.MemoryFrame := fun _ _ _ _ hm h ha => (exec_storedBy h).read_eq hm ha

/-- Settles O58: a store keeps the form, and the instruction starts with the memory of the step. -/
theorem stepKeepsMemoryForm : Obligations.StepKeepsMemoryForm := by
  intro s t hm h
  obtain ⟨-, -, bytes, i, rest, -, -, hexec⟩ := step_eq_next h
  exact (exec_storedBy hexec).wf hm

end Sys2Proof.Machine
end

section
/-! SUPPORT. The three parts of an encoding (30_encoding.md R100, R124): the prefixes, the opcode and the operands of an
instruction. Each part is read back from its bytes, and what is read back was there; so is the whole. -/

namespace Sys2Proof

open Sys2Proof.Machine (except_map_eq_ok)

/-! ## The parts of an encoding -/

/-- The bytes of an opcode (R124). -/
def Opcode.bytes : Opcode → List Byte
  | .mr wide => [if wide then 0x89 else 0x88]
  | .rm wide => [if wide then 0x8B else 0x8A]
  | .fromSreg => [0x8C]
  | .toSreg => [0x8E]
  | .fd wide => [if wide then 0xA1 else 0xA0]
  | .td wide => [if wide then 0xA3 else 0xA2]
  | .oiByte r => [(0x16 : BitVec 5) ++ r]
  | .oi r => [(0x17 : BitVec 5) ++ r]
  | .mi wide => [if wide then 0xC7 else 0xC6]
  | .fromCr => [0x0F, 0x20]
  | .toCr => [0x0F, 0x22]
  | .fromDr => [0x0F, 0x21]
  | .toDr => [0x0F, 0x23]

/-- The opcode of a row (R124). -/
def Instr.opcode : Instr → Opcode
  | .movRm8R8 .. | .movRm8R8Rex .. => .mr false
  | .movRm16R16 .. | .movRm32R32 .. | .movRm64R64 .. => .mr true
  | .movR8Rm8 .. | .movR8Rm8Rex .. => .rm false
  | .movR16Rm16 .. | .movR32Rm32 .. | .movR64Rm64 .. => .rm true
  | .movRm16Sreg .. | .movRm64Sreg .. => .fromSreg
  | .movSregRm16 .. | .movSregRm64 .. => .toSreg
  | .movAlMoffs8 .. | .movAlMoffs8RexW .. => .fd false
  | .movAxMoffs16 .. | .movEaxMoffs32 .. | .movRaxMoffs64 .. => .fd true
  | .movMoffs8Al .. | .movMoffs8AlRexW .. => .td false
  | .movMoffs16Ax .. | .movMoffs32Eax .. | .movMoffs64Rax .. => .td true
  | .movR8Imm8 _ r _ | .movR8Imm8Rex _ r _ => .oiByte r
  | .movR16Imm16 _ r _ | .movR32Imm32 _ r _ | .movR64Imm64 _ r _ => .oi r
  | .movRm8Imm8 .. | .movRm8Imm8Rex .. => .mi false
  | .movRm16Imm16 .. | .movRm32Imm32 .. | .movRm64Imm32 .. => .mi true
  | .movR32Cr .. | .movR64Cr .. | .movR64Cr8 .. => .fromCr
  | .movCrR32 .. | .movCrR64 .. | .movCr8R64 .. => .toCr
  | .movR32Dr .. | .movR64Dr .. => .fromDr
  | .movDrR32 .. | .movDrR64 .. => .toDr

/-- The bytes behind the opcode (R110 to R121). -/
def Instr.operandBytes : Instr → List Byte
  | .movRm8R8 _ g rm | .movRm8R8Rex _ g rm | .movRm16R16 _ g rm | .movRm32R32 _ g rm | .movRm64R64 _ g rm
  | .movR8Rm8 _ g rm | .movR8Rm8Rex _ g rm | .movR16Rm16 _ g rm | .movR32Rm32 _ g rm | .movR64Rm64 _ g rm
  | .movRm16Sreg _ g rm | .movRm64Sreg _ g rm | .movSregRm16 _ g rm | .movSregRm64 _ g rm => rm.bytes g
  | .movAlMoffs8 _ o | .movAlMoffs8RexW _ o | .movAxMoffs16 _ o | .movEaxMoffs32 _ o | .movRaxMoffs64 _ o
  | .movMoffs8Al _ o | .movMoffs8AlRexW _ o | .movMoffs16Ax _ o | .movMoffs32Eax _ o | .movMoffs64Rax _ o => o.bytes
  | .movR8Imm8 _ _ imm | .movR8Imm8Rex _ _ imm => [imm]
  | .movR16Imm16 _ _ imm => bytes16 imm
  | .movR32Imm32 _ _ imm => bytes32 imm
  | .movR64Imm64 _ _ imm => bytes64 imm
  | .movRm8Imm8 _ rm imm | .movRm8Imm8Rex _ rm imm => rm.bytes 0 ++ [imm]
  | .movRm16Imm16 _ rm imm => rm.bytes 0 ++ bytes16 imm
  | .movRm32Imm32 _ rm imm | .movRm64Imm32 _ rm imm => rm.bytes 0 ++ bytes32 imm
  | .movR32Cr _ mod reg rm | .movR64Cr _ mod reg rm | .movCrR32 _ mod reg rm | .movCrR64 _ mod reg rm
  | .movR32Dr _ mod reg rm | .movR64Dr _ mod reg rm | .movDrR32 _ mod reg rm | .movDrR64 _ mod reg rm =>
    [fieldsByte mod reg rm]
  | .movR64Cr8 _ mod rm | .movCr8R64 _ mod rm => [fieldsByte mod 0 rm]

/-- An encoding is the bytes of its parts, one after another (R100). -/
theorem encode_eq_parts (i : Instr) :
    encode i = i.prefixes.bytes ++ (i.opcode.bytes ++ i.operandBytes) := by
  cases i <;> rfl

/-! ## Opcodes -/

theorem opcodeOf_oiByte (r : BitVec 3) : opcodeOf ((0x16 : BitVec 5) ++ r) = some (.oiByte r) := by
  revert r
  decide

theorem opcodeOf_oi (r : BitVec 3) : opcodeOf ((0x17 : BitVec 5) ++ r) = some (.oi r) := by
  revert r
  decide

theorem readOpcode_one {b : Byte} {op : Opcode} {bs : List Byte} (hb : b ≠ 0x0F) (h : opcodeOf b = some op) :
    readOpcode (b :: bs) = .ok (op, bs) := by
  simp only [readOpcode, if_neg hb, h]

theorem readOpcode_notMov {b : Byte} {bs : List Byte} (hb : b ≠ 0x0F) (h : opcodeOf b = none) :
    readOpcode (b :: bs) = .error (.notMov b) := by
  simp only [readOpcode, if_neg hb, h]

theorem readOpcode_notMovTwoByte {b : Byte} {bs : List Byte} (h : opcodeOf0F b = none) :
    readOpcode (0x0F :: b :: bs) = .error (.notMovTwoByte b) := by
  simp only [readOpcode, if_true, h]

theorem readOpcode_bytes (op : Opcode) (bs : List Byte) : readOpcode (op.bytes ++ bs) = .ok (op, bs) := by
  cases op with
  | mr wide | rm wide | fd wide | td wide | mi wide => cases wide <;> rfl
  | oiByte r => exact readOpcode_one (by revert r; decide) (opcodeOf_oiByte r)
  | oi r => exact readOpcode_one (by revert r; decide) (opcodeOf_oi r)
  | fromSreg | toSreg | fromCr | toCr | fromDr | toDr => rfl

theorem opcodeOf_eq_some {b : Byte} {op : Opcode} (h : opcodeOf b = some op) : op.bytes = [b] := by
  have hall : ∀ b : Byte, ∀ op ∈ opcodeOf b, op.bytes = [b] := by decide
  exact hall b op h

theorem opcodeOf0F_eq_some {b : Byte} {op : Opcode} (h : opcodeOf0F b = some op) : op.bytes = [0x0F, b] := by
  have hall : ∀ b : Byte, ∀ op ∈ opcodeOf0F b, op.bytes = [0x0F, b] := by decide
  exact hall b op h

/-- What an opcode was read from. -/
theorem readOpcode_eq_ok {bs rest : List Byte} {op : Opcode} (h : readOpcode bs = .ok (op, rest)) :
    op.bytes ++ rest = bs := by
  unfold readOpcode at h
  repeat' split at h
  all_goals cases h
  · rename_i hop
    rw [opcodeOf0F_eq_some hop]
    simp_all
  · rename_i hop
    rw [opcodeOf_eq_some hop]
    rfl

/-- In no mode does an opcode start with a byte that is read as one of the prefixes. -/
theorem opcode_bytes_head (op : Opcode) : ∃ b bs, op.bytes = b :: bs ∧ ∀ long, noPrefix long b := by
  have hlong : ∃ b bs, op.bytes = b :: bs ∧ noPrefix true b := by
    unfold noPrefix
    cases op with
    | mr wide | rm wide | fd wide | td wide | mi wide => cases wide <;> exact ⟨_, _, rfl, by decide⟩
    | oiByte r | oi r => exact ⟨_, _, rfl, by revert r; decide⟩
    | fromSreg | toSreg | fromCr | toCr | fromDr | toDr => exact ⟨_, _, rfl, by decide⟩
  obtain ⟨b, bs, hop, hb⟩ := hlong
  exact ⟨b, bs, hop, noPrefix_of_long hb⟩

/-! ## Operands -/

section
variable {c : Ctx} {i : Instr} {rest : List Byte}

/-- The operands of a row are read back from their bytes, and make that row. -/
theorem readOperands_bytes (h : i.rowOk c = true) :
    readOperands c i.prefixes i.opcode (i.operandBytes ++ rest) = .ok (i, rest) := by
  cases i with
  | movRm8R8 p g rm | movRm8R8Rex p g rm | movR8Rm8 p g rm | movR8Rm8Rex p g rm
  | movRm16Sreg p g rm | movRm64Sreg p g rm | movSregRm16 p g rm | movSregRm64 p g rm
  | movRm16R16 p g rm | movRm32R32 p g rm | movRm64R64 p g rm
  | movR16Rm16 p g rm | movR32Rm32 p g rm | movR64Rm64 p g rm =>
    simp only [Instr.rowOk, rmRow, sized, Bool.and_eq_true, Bool.not_eq_true', decide_eq_true_eq] at h
    obtain ⟨⟨-, hrm⟩, hrow⟩ := h
    simp [readOperands, Instr.prefixes, Instr.opcode, Instr.operandBytes, readModRm_bytes _ _ _ _ hrm, hrow, Except.map]
  | movAlMoffs8 p off | movAlMoffs8RexW p off | movMoffs8Al p off | movMoffs8AlRexW p off
  | movAxMoffs16 p off | movEaxMoffs32 p off | movRaxMoffs64 p off
  | movMoffs16Ax p off | movMoffs32Eax p off | movMoffs64Rax p off =>
    simp only [Instr.rowOk, moffsRow, sized, Bool.and_eq_true, Bool.not_eq_true', decide_eq_true_eq] at h
    obtain ⟨⟨-, hoff⟩, hrow⟩ := h
    simp [readOperands, Instr.prefixes, Instr.opcode, Instr.operandBytes, readMoffs_bytes _ _ _ hoff, hrow, Except.map]
  | movR8Imm8 p r imm | movR8Imm8Rex p r imm | movR16Imm16 p r imm | movR32Imm32 p r imm | movR64Imm64 p r imm =>
    simp only [Instr.rowOk, sized, Bool.and_eq_true, Bool.not_eq_true', decide_eq_true_eq] at h
    obtain ⟨-, hrow⟩ := h
    simp [readOperands, Instr.prefixes, Instr.opcode, Instr.operandBytes, le8, le16_bytes16, le32_bytes32,
      le64_bytes64, hrow, Except.map]
  | movRm8Imm8 p rm imm | movRm8Imm8Rex p rm imm | movRm16Imm16 p rm imm | movRm32Imm32 p rm imm
  | movRm64Imm32 p rm imm =>
    simp only [Instr.rowOk, rmRow, sized, Bool.and_eq_true, Bool.not_eq_true', decide_eq_true_eq] at h
    obtain ⟨⟨-, hrm⟩, hrow⟩ := h
    simp [readOperands, Instr.prefixes, Instr.opcode, Instr.operandBytes, List.append_assoc,
      readModRm_bytes _ _ _ _ hrm, le8, le16_bytes16, le32_bytes32, hrow, Except.map]
  | movR32Cr p mod reg rm | movCrR32 p mod reg rm | movR32Dr p mod reg rm | movDrR32 p mod reg rm
  | movR64Dr p mod reg rm | movDrR64 p mod reg rm =>
    simp only [Instr.rowOk, Bool.and_eq_true, decide_eq_true_eq] at h
    obtain ⟨-, hmode⟩ := h
    simp [readOperands, Instr.prefixes, Instr.opcode, Instr.operandBytes, readModRmFields_fieldsByte, hmode, Except.map]
  | movR64Cr p mod cr rm | movCrR64 p mod cr rm =>
    simp only [Instr.rowOk, Bool.and_eq_true, Bool.not_eq_true', decide_eq_true_eq] at h
    obtain ⟨⟨-, hmode⟩, hbits⟩ := h
    have hcr : ¬ (p.rexR = true ∧ cr = 0) := by simpa using hbits
    simp only [readOperands, Instr.prefixes, Instr.opcode, Instr.operandBytes, List.singleton_append,
      readModRmFields_fieldsByte, hmode, if_true, Except.map]
    exact congrArg (fun j => Except.ok (j, rest)) (if_neg hcr)
  | movR64Cr8 p mod rm | movCr8R64 p mod rm =>
    simp only [Instr.rowOk, Bool.and_eq_true, decide_eq_true_eq] at h
    obtain ⟨⟨-, hmode⟩, hr⟩ := h
    simp [readOperands, Instr.prefixes, Instr.opcode, Instr.operandBytes, readModRmFields_fieldsByte, hmode, hr,
      Except.map]

end

/-- That the parts of `i` are these, its operands at the head of `bs` in front of `rest`. -/
def Instr.madeOf (i : Instr) (p : Prefixes) (op : Opcode) (bs rest : List Byte) : Prop :=
  i.prefixes = p ∧ i.opcode = op ∧ i.operandBytes ++ rest = bs

section
variable {c : Ctx} {p : Prefixes} {op : Opcode} {i : Instr} {bs rest : List Byte}

/-- What operands were read from, and the instruction they make. -/
theorem readOperands_eq_ok (h : readOperands c p op bs = .ok (i, rest)) : i.madeOf p op bs rest := by
  have hsize := opSize_cases c p
  cases op with
  | mr wide | rm wide =>
    cases wide <;>
    · obtain ⟨⟨reg, rm, bs'⟩, hread, heq⟩ := except_map_eq_ok.1 h
      have hbytes := (readModRm_eq_ok _ _ _ _ _ hread).1
      grind [Instr.madeOf, Instr.prefixes, Instr.opcode, Instr.operandBytes]
  | fromSreg | toSreg =>
    obtain ⟨⟨reg, rm, bs'⟩, hread, heq⟩ := except_map_eq_ok.1 h
    have hbytes := (readModRm_eq_ok _ _ _ _ _ hread).1
    grind [Instr.madeOf, Instr.prefixes, Instr.opcode, Instr.operandBytes]
  | fd wide | td wide =>
    cases wide <;>
    · obtain ⟨⟨off, bs'⟩, hread, heq⟩ := except_map_eq_ok.1 h
      have hbytes := (readMoffs_eq_ok _ _ _ _ hread).1
      grind [Instr.madeOf, Instr.prefixes, Instr.opcode, Instr.operandBytes]
  | oiByte r =>
    obtain ⟨⟨v, bs'⟩, hread, heq⟩ := except_map_eq_ok.1 h
    have hbytes := le8_eq_ok _ _ _ hread
    grind [Instr.madeOf, Instr.prefixes, Instr.opcode, Instr.operandBytes]
  | oi r =>
    unfold readOperands at h
    rcases hsize with hw | hw | hw <;> rw [hw] at h <;>
    · obtain ⟨⟨v, bs'⟩, hread, heq⟩ := except_map_eq_ok.1 h
      grind [Instr.madeOf, Instr.prefixes, Instr.opcode, Instr.operandBytes, le16_eq_ok, le32_eq_ok, le64_eq_ok]
  | mi wide =>
    unfold readOperands at h
    cases hread : readModRm (addrSize c p) bs with
    | error e => simp [hread] at h
    | ok read =>
      obtain ⟨reg, rm, bs'⟩ := read
      simp only [hread] at h
      split at h
      · cases h
      · obtain rfl : reg = 0 := not_not.1 ‹_›
        have hbytes := (readModRm_eq_ok _ _ _ _ _ hread).1
        cases wide with
        | false =>
          obtain ⟨⟨v, bs''⟩, himm, heq⟩ := except_map_eq_ok.1 h
          have himm := le8_eq_ok _ _ _ himm
          grind [Instr.madeOf, Instr.prefixes, Instr.opcode, Instr.operandBytes]
        | true =>
          rcases hsize with hw | hw | hw <;> rw [if_pos rfl, hw] at h <;>
          · obtain ⟨⟨v, bs''⟩, himm, heq⟩ := except_map_eq_ok.1 h
            grind [Instr.madeOf, Instr.prefixes, Instr.opcode, Instr.operandBytes, le16_eq_ok, le32_eq_ok]
  | fromCr | toCr | fromDr | toDr =>
    obtain ⟨⟨⟨mod, reg, rm⟩, bs'⟩, hread, heq⟩ := except_map_eq_ok.1 h
    have hbytes := readModRmFields_eq_ok _ _ _ _ _ hread
    grind [Instr.madeOf, Instr.prefixes, Instr.opcode, Instr.operandBytes]

end

/-! ## The whole -/

section
variable {c : Ctx} {p : Prefixes} {op : Opcode} {i : Instr} {bs rest : List Byte}

/-- Behind prefixes that bytes can hold, an opcode that is refused refuses the instruction (R100). -/
theorem decode_of_readOpcode_error {b : Byte} {e : Reject} (hp : p.wf c = true) (hb : noPrefix (c.mode = .long64) b)
    (hread : readOpcode (b :: bs) = .error e) : decode c (p.bytes ++ b :: bs) = .error e := by
  obtain ⟨hscan, hcheck⟩ := scanPrefixes_wf c p b bs hb hp
  simp only [decode, hscan, hcheck, hread]

/-- Behind prefixes that bytes can hold and an opcode, what is read are the operands, if they are not too many bytes
(R101). -/
theorem decode_parts (hp : p.wf c = true) :
    decode c (p.bytes ++ (op.bytes ++ bs)) = (readOperands c p op bs).bind fun x =>
      if 15 < (p.bytes ++ (op.bytes ++ bs)).length - x.2.length then .error .tooLong else .ok x := by
  obtain ⟨b, tail, hop, hb⟩ := opcode_bytes_head op
  obtain ⟨hscan, hcheck⟩ := scanPrefixes_wf c p b (tail ++ bs) (hb _) hp
  have hopcode := readOpcode_bytes op bs
  rw [hop, List.cons_append] at hopcode ⊢
  simp only [decode, hscan, hcheck, hopcode]
  cases readOperands c p op bs <;> rfl

theorem encode_append_length_sub (i : Instr) (rest : List Byte) :
    (encode i ++ rest).length - rest.length = i.size := by
  simp [Instr.size]

/-- The bytes of a row are read as that row, if they are not too many (R101). -/
theorem decode_encode_of_rowOk (h : i.rowOk c = true) :
    decode c (encode i ++ rest) = if 15 < i.size then .error .tooLong else .ok (i, rest) := by
  have hbytes : encode i ++ rest = i.prefixes.bytes ++ (i.opcode.bytes ++ (i.operandBytes ++ rest)) := by
    simp only [encode_eq_parts, List.append_assoc]
  rw [hbytes, decode_parts (Instr.prefixes_wf_of_rowOk h), readOperands_bytes h, Except.bind, ← hbytes,
    encode_append_length_sub]

/-- An instruction that is read is made of prefixes, an opcode and operands that are read one after another, together at
most 15 bytes (R100, R101). -/
theorem decode_eq_ok (h : decode c bs = .ok (i, rest)) :
    ∃ p op bs1 bs2, scanPrefixes (c.mode = .long64) bs = .ok (p, bs1) ∧ checkPrefixes p = .ok ()
      ∧ readOpcode bs1 = .ok (op, bs2) ∧ readOperands c p op bs2 = .ok (i, rest) ∧ bs.length - rest.length ≤ 15 := by
  unfold decode at h
  split at h
  · cases h
  rename_i p bs1 hscan
  split at h
  · cases h
  rename_i hcheck
  split at h
  · cases h
  rename_i op bs2 hopcode
  split at h
  · cases h
  rename_i hoperands
  split at h
  · cases h
  · cases h
    exact ⟨p, op, bs1, bs2, hscan, hcheck, hopcode, hoperands, not_lt.1 ‹_›⟩

/-- What is read encodes to the bytes that were read (R100). -/
theorem encode_append_of_decode (h : decode c bs = .ok (i, rest)) : encode i ++ rest = bs := by
  obtain ⟨p, op, bs1, bs2, hscan, -, hopcode, hoperands, -⟩ := decode_eq_ok h
  obtain ⟨rfl, rfl, hbytes⟩ := readOperands_eq_ok hoperands
  calc encode i ++ rest
      = i.prefixes.bytes ++ (i.opcode.bytes ++ (i.operandBytes ++ rest)) := by
        simp only [encode_eq_parts, List.append_assoc]
    _ = i.prefixes.bytes ++ bs1 := by rw [hbytes, readOpcode_eq_ok hopcode]
    _ = bs := (scanPrefixes_eq_ok _ _ _ _ hscan).1

theorem Instr.wf_iff : i.wf c = true ↔ i.rowOk c = true ∧ i.size ≤ 15 := by
  rw [Instr.wf, Bool.and_eq_true, decide_eq_true_eq]
  rfl

theorem Instr.wf_of_decode (h : decode c bs = .ok (i, rest)) : i.wf c = true := by
  obtain ⟨_, _, _, _, -, -, -, -, hlength⟩ := decode_eq_ok h
  rw [← encode_append_of_decode h, encode_append_length_sub] at hlength
  exact Instr.wf_iff.2 ⟨decode_rowOk h, hlength⟩

/-- The bytes of an instruction that bytes can hold are read as that instruction, whatever follows them (R101). -/
theorem decode_encode (h : i.wf c = true) : decode c (encode i ++ rest) = .ok (i, rest) := by
  obtain ⟨hrow, hsize⟩ := Instr.wf_iff.1 h
  rw [decode_encode_of_rowOk hrow, if_neg (by omega)]

end

end Sys2Proof
end

section
/-! PROOF. Decoding and encoding undo each other (30_encoding.md R100, R101, R124, R125, R133); and the bytes that make no
instruction (R101, R107, R109, R123, R130): too many, bytes that start no row, a reg field that names none, and prefixes that
are refused. -/

namespace Sys2Proof

open Sys2Proof.Machine (except_map_eq_ok)

section
variable {c : Ctx} {p : Prefixes} {bs : List Byte}

/-! ## Behind the prefixes -/

/-- A byte outside 40H to 4FH is no REX byte (R108). -/
theorem rexOf_eq_none {b : Byte} (h : ¬ (0x40 ≤ b.toNat ∧ b.toNat ≤ 0x4F)) : rexOf b = none := by
  revert b
  decide

theorem legacyPrefix_eq_none {b : Byte}
    (h : b ∉ [(0x26 : Byte), 0x2E, 0x36, 0x3E, 0x64, 0x65, 0x66, 0x67, 0xF0, 0xF2, 0xF3]) :
    b ≠ 0xF2 ∧ b ≠ 0xF3 ∧ legacyPrefix b = none := by
  revert b
  decide

/-- The bytes of the prefixes are the legacy ones and, where there are any, the REX bytes (R103, R107, R108). -/
theorem noPrefix_of_ne {b : Byte}
    (h : b ∉ [(0x26 : Byte), 0x2E, 0x36, 0x3E, 0x64, 0x65, 0x66, 0x67, 0xF0, 0xF2, 0xF3])
    (hrex : ¬ (c.mode = .long64 ∧ 0x40 ≤ b.toNat ∧ b.toNat ≤ 0x4F)) : noPrefix (c.mode = .long64) b := by
  obtain ⟨hF2, hF3, hlegacy⟩ := legacyPrefix_eq_none h
  refine ⟨hF2, hF3, hlegacy, ?_⟩
  by_cases hm : c.mode = .long64
  · rw [decide_eq_true hm, if_pos rfl]
    exact rexOf_eq_none fun hb => hrex ⟨hm, hb⟩
  · rw [decide_eq_false hm, if_neg nofun]

/-- Every other byte makes no one-byte opcode (R124). -/
theorem opcodeOf_eq_none {b : Byte}
    (hrow : b ∉ [(0x0F : Byte), 0x88, 0x89, 0x8A, 0x8B, 0x8C, 0x8E, 0xA0, 0xA1, 0xA2, 0xA3, 0xC6, 0xC7])
    (hreg : ¬ (0xB0 ≤ b.toNat ∧ b.toNat ≤ 0xBF)) : opcodeOf b = none := by
  revert b
  decide

theorem opcodeOf0F_eq_none {b : Byte} (h : b ∉ [(0x20 : Byte), 0x21, 0x22, 0x23]) : opcodeOf0F b = none := by
  revert b
  decide

/-- A byte that is none of the prefixes and no opcode is refused (R130). -/
theorem decode_notMov {b : Byte} (hp : p.wf c = true) (hb : noPrefix (c.mode = .long64) b) (h0F : b ≠ 0x0F)
    (h : opcodeOf b = none) : decode c (p.bytes ++ b :: bs) = .error (.notMov b) :=
  decode_of_readOpcode_error hp hb (readOpcode_notMov h0F h)

/-- Outside LONG64 a REX byte is none of the prefixes (R109). -/
theorem noPrefix_rexByte (r : Rex) : noPrefix false r.byte := by
  obtain ⟨hF2, hF3, hlegacy, -⟩ := rexByte_reads r
  exact ⟨hF2, hF3, hlegacy, rfl⟩

theorem opcodeOf_rexByte (r : Rex) : r.byte ≠ 0x0F ∧ opcodeOf r.byte = none := by
  obtain ⟨w, r, x, b⟩ := r
  revert w r x b
  decide

/-- The reg field that is read is the one of the byte, whatever the operand (R110). -/
theorem readModRm_fieldsByte_reg {a : AddrSize} {mod : BitVec 2} {reg rm g : BitVec 3} {r : Rm} {rest : List Byte}
    (h : readModRm a (fieldsByte mod reg rm :: bs) = .ok (g, r, rest)) : g = reg := by
  rw [readModRm_fieldsByte] at h
  split at h
  · cases h
    rfl
  · obtain ⟨⟨m, tail⟩, -, heq⟩ := except_map_eq_ok.1 h
    cases heq
    rfl

/-- C6 and C7 take the reg field 000 only (R123). -/
theorem readOperands_mi_error {wide : Bool} {mod : BitVec 2} {reg rm : BitVec 3} (hreg : reg ≠ 0) :
    ∃ e, readOperands c p (.mi wide) (fieldsByte mod reg rm :: bs) = .error e := by
  cases hread : readModRm (addrSize c p) (fieldsByte mod reg rm :: bs) with
  | error e => exact ⟨e, by simp only [readOperands, hread]⟩
  | ok read =>
    obtain ⟨g, r, rest⟩ := read
    obtain rfl : g = reg := readModRm_fieldsByte_reg hread
    exact ⟨.notExtensionZero g, by simp only [readOperands, hread, if_pos hreg]⟩

end

/-! ## Among the prefixes -/

section
variable {long : Bool} {a : Prefix} {q : List Prefix} {p : Prefixes} {bs rest : List Byte}

/-- One of the legacy prefixes, or in LONG64 a REX byte, is put in front of what is read behind it, and a REX byte is none of
the legacy prefixes (R103, R109). -/
theorem scanPrefixes_prefix (ha : long = true ∨ a.isLegacy = true) :
    ∃ f : Prefixes → Prefixes,
      (∀ p, (f p).pre.filter Prefix.isLegacy = [a].filter Prefix.isLegacy ++ p.pre.filter Prefix.isLegacy)
        ∧ ∀ bs, scanPrefixes long (a.byte :: bs) = (scanPrefixes long bs).map fun x => (f x.1, x.2) := by
  by_cases hlegacy : a.isLegacy = true
  · exact ⟨Prefixes.cons a, fun p => List.filter_append [a] p.pre, fun bs => scanPrefixes_legacy long a bs hlegacy⟩
  · obtain rfl : long = true := ha.resolve_right hlegacy
    cases a with
    | deadRex r =>
      refine ⟨Prefixes.consRex r, fun p => ?_, scanPrefixes_rex r⟩
      unfold Prefixes.consRex
      split
      · rename_i hp
        rw [hp.1]
        rfl
      · rfl
    | opSize | addrSize | segOverride | lock => exact absurd rfl hlegacy

theorem legacy_of_cons (h : long = true ∨ (a :: q).all Prefix.isLegacy = true) :
    (long = true ∨ a.isLegacy = true) ∧ (long = true ∨ q.all Prefix.isLegacy = true) := by
  rw [List.all_cons, Bool.and_eq_true] at h
  exact or_and_left.1 h

/-- What is refused behind prefixes is refused with them. -/
theorem scanPrefixes_error_behind {e : Reject} (hq : long = true ∨ q.all Prefix.isLegacy = true)
    (h : scanPrefixes long bs = .error e) : scanPrefixes long (q.map Prefix.byte ++ bs) = .error e := by
  induction q with
  | nil => exact h
  | cons a q ih =>
    obtain ⟨ha, hq⟩ := legacy_of_cons hq
    obtain ⟨f, -, hscan⟩ := scanPrefixes_prefix ha
    rw [List.map_cons, List.cons_append, hscan, ih hq]
    rfl

/-- The legacy prefixes at the head of the bytes are the first of those that are read. -/
theorem legacy_prefix_of_scanPrefixes (hq : long = true ∨ q.all Prefix.isLegacy = true)
    (h : scanPrefixes long (q.map Prefix.byte ++ bs) = .ok (p, rest)) :
    q.filter Prefix.isLegacy <+: p.pre.filter Prefix.isLegacy := by
  induction q generalizing p with
  | nil => exact List.nil_prefix
  | cons a q ih =>
    obtain ⟨ha, hq⟩ := legacy_of_cons hq
    obtain ⟨f, hf, hscan⟩ := scanPrefixes_prefix ha
    rw [List.map_cons, List.cons_append, hscan] at h
    obtain ⟨⟨p', rest'⟩, hread, heq⟩ := except_map_eq_ok.1 h
    cases heq
    have hsplit : (a :: q).filter Prefix.isLegacy = [a].filter Prefix.isLegacy ++ q.filter Prefix.isLegacy :=
      List.filter_append [a] q
    rw [hf, hsplit, List.prefix_append_right_inj]
    exact ih hq hread

/-- Prefixes that are read and admitted repeat no 66H or 67H and are at most four, counted at the head of the bytes (R107,
D20). -/
theorem counts_of_scanPrefixes (hq : long = true ∨ q.all Prefix.isLegacy = true)
    (h : scanPrefixes long (q.map Prefix.byte ++ bs) = .ok (p, rest)) (hcheck : checkPrefixes p = .ok ()) :
    q.count .opSize ≤ 1 ∧ q.count .addrSize ≤ 1 ∧ q.countP Prefix.isLegacy ≤ 4 := by
  have hprefix := legacy_prefix_of_scanPrefixes hq h
  obtain ⟨hop, haddr, hall⟩ := checkPrefixes_eq_ok p _ hcheck
  have hcount : ∀ a : Prefix, a.isLegacy = true → q.count a ≤ p.pre.count a := fun a ha => by
    rw [← List.count_filter ha, ← List.count_filter (l := p.pre) ha]
    exact hprefix.sublist.count_le a
  refine ⟨(hcount _ rfl).trans hop, (hcount _ rfl).trans haddr, le_trans ?_ hall⟩
  rw [List.countP_eq_length_filter, List.countP_eq_length_filter]
  exact hprefix.length_le

end

/-! ## Round trip and refusals -/

/-- Settles O1: each part is read back from its bytes, and the length is at most 15. -/
theorem decodeEncode : Obligations.DecodeEncode := fun _ _ _ => decode_encode

/-- Settles O2: each part that is read was at the head of the bytes. -/
theorem encodeDecode : Obligations.EncodeDecode :=
  fun _ _ _ _ h => ⟨encode_append_of_decode h, Instr.wf_of_decode h⟩

/-- Settles O3: the length of a row is judged last. -/
theorem tooLongRefused : Obligations.TooLongRefused := by
  intro c i rest hrow hsize
  rw [decode_encode_of_rowOk hrow, if_pos hsize]

/-- Settles O4: behind prefixes the opcode or the reg field is refused; among them the byte is, or their count. -/
theorem outsideTheMap : Obligations.OutsideTheMap := by
  refine ⟨fun c p b mod reg rm bs hp hb hreg => ?extension, fun c p r bs hp hm => ?rexByte,
    fun c p b bs hp hlegacy hrex hrow hreg => ?opcode, fun c p b bs hp hb => ?twoByte, fun c q b bs hq hb => ?rep,
    fun c q bs hq hcount => ?repeated⟩
  case extension =>
    obtain ⟨wide, hbyte⟩ : ∃ wide, Opcode.bytes (.mi wide) = [b] := by
      rcases hb with rfl | rfl
      · exact ⟨false, rfl⟩
      · exact ⟨true, rfl⟩
    obtain ⟨e, he⟩ := readOperands_mi_error (c := c) (p := p) (wide := wide) (mod := mod) (rm := rm) (bs := bs) hreg
    refine ⟨e, ?_⟩
    have hread := decode_parts (op := .mi wide) (bs := fieldsByte mod reg rm :: bs) hp
    rwa [he, hbyte] at hread
  case rexByte =>
    obtain ⟨h0F, hopcode⟩ := opcodeOf_rexByte r
    exact decode_notMov hp (decide_eq_false hm ▸ noPrefix_rexByte r) h0F hopcode
  case opcode =>
    exact decode_notMov hp (noPrefix_of_ne hlegacy hrex) (fun h0F => hrow (by simp [h0F])) (opcodeOf_eq_none hrow hreg)
  case twoByte =>
    have h0F : noPrefix true 0x0F := by unfold noPrefix; decide
    exact decode_of_readOpcode_error hp (noPrefix_of_long h0F _) (readOpcode_notMovTwoByte (opcodeOf0F_eq_none hb))
  case rep =>
    have hscan : scanPrefixes (c.mode = .long64) (b :: bs) = .error .repPrefix := by
      rw [scanPrefixes, if_pos hb]
    simp only [decode, scanPrefixes_error_behind (by simpa using hq) hscan]
  case repeated =>
    cases hdecode : decode c (q.map Prefix.byte ++ bs) with
    | error e => exact ⟨e, rfl⟩
    | ok read =>
      obtain ⟨p, op, bs1, bs2, hscan, hcheck, -⟩ := decode_eq_ok hdecode
      have hcounts := counts_of_scanPrefixes (by simpa using hq) hscan hcheck
      omega

/-- Settles O5: the decoder run on each word. -/
theorem decodedWords : Obligations.DecodedWords := by
  refine ⟨?_, ?_, ?_, ?_, ?_, ?_, ?_, ?_, ?_, ?_, ?_⟩ <;> decide

end Sys2Proof
end

section
/-! PROOF. A step is the meaning of the instruction that the bytes at pc are read as (60_exceptions.md R300, R318;
70_reset_and_hazards.md R342). -/

namespace Sys2Proof.Machine

section
variable {s : State} {i : Instr}

theorem step_of_decode {bytes rest : List Byte} (hend : s.atEnd = false) (hint : s.interruptTaken = false)
    (hfetch : s.fetch = some bytes) (hdecode : decode s.ctx bytes = .ok (i, rest)) : step s = exec i s.begin := by
  simp only [step, hend, hint, hfetch, hdecode, Bool.false_eq_true, if_false]

/-- Inside the text the bytes from pc on are fetched, and the run is not at its end (R342). -/
theorem State.fetch_of_text {before bytes : List Byte} (htext : s.text.bytes = before ++ bytes)
    (hpc : s.textIndex s.pc = before.length) (hbytes : bytes ≠ []) : s.atEnd = false ∧ s.fetch = some bytes := by
  have hpos := List.length_pos_iff.2 hbytes
  constructor
  · simp only [State.atEnd, htext, hpc, List.length_append, decide_eq_false_iff_not]
    omega
  · simp only [State.fetch, htext, hpc, List.length_append, List.drop_left]
    exact if_pos (by omega)

/-- No interrupt is taken that is not offered, or while int_shadow is 1 (R318). -/
theorem State.interruptTaken_eq_false (h : s.offers.head? ≠ some true ∨ s.intShadow = true) :
    s.interruptTaken = false := by
  unfold State.interruptTaken State.offered
  rcases h with hoffer | hshadow
  · rcases hlist : s.offers with _ | ⟨_ | _, _⟩
    · rfl
    · rfl
    · simp [hlist] at hoffer
  · rw [hshadow, Bool.not_true, Bool.and_false]

theorem encode_ne_nil (i : Instr) : encode i ≠ [] := by
  obtain ⟨b, bs, hop, -⟩ := opcode_bytes_head i.opcode
  simp [encode_eq_parts, hop]

end

/-- Settles O48: the three things that come before an instruction are not the case. -/
theorem stepRunsDecoded : Obligations.StepRunsDecoded := fun _ _ _ _ => step_of_decode

/-- Settles O49: the bytes at pc are read as the instruction they encode. -/
theorem stepRunsTheText : Obligations.StepRunsTheText := by
  intro s before after i htext hpc hwf hoffer
  rw [List.append_assoc] at htext
  obtain ⟨hend, hfetch⟩ := State.fetch_of_text htext hpc (List.append_ne_nil_of_left_ne_nil (encode_ne_nil i) after)
  exact step_of_decode hend (State.interruptTaken_eq_false hoffer) hfetch (decode_encode hwf)

end Sys2Proof.Machine
end

section
/-! PROOF. Moves between the accumulator and a direct offset (40_mov_general.md R166 to R175): one lemma for the rows that
load and one for those that store. -/

namespace Sys2Proof.Machine

section
variable {s : State} {p : Prefixes} {len : Nat} {w : Width} {off : Moffs} {phys v : Word}

/-- The accumulator is register 0, at bit 0 in every width (R23, R122). -/
theorem operandAt_accumulator (w : Width) (rex : Bool) : operandAt w 0 rex = (0, 0) := by
  unfold operandAt
  exact if_neg (by rintro ⟨-, -, h4, -⟩; exact absurd h4 (by decide))

/-- Only the bytes of the access count in what a store leaves (R75). -/
theorem bytesWritten_congr {t : State} {n : Nat} {u : Word} (h : ∀ k, k < n → byteOf v k = byteOf u k)
    (hv : bytesWritten s t phys n v) : bytesWritten s t phys n u :=
  ⟨fun k hk => (hv.1 k hk).trans (h k hk), hv.2⟩

/-- The bytes of the accumulator's operand are the low bytes of register 0 (R24). -/
theorem byteOf_regRead_accumulator {rex : Bool} {k : Nat} (hk : k < w.bytes) :
    byteOf (s.regRead w 0 rex) k = byteOf (s.reg 0) k := by
  refine BitVec.eq_of_getLsbD_eq fun j hj => ?_
  have hbits := width_bits_eq w
  have hread := regRead_operand s w 0 rex (8 * k + j) (by omega)
  simp only [byteOf, BitVec.getLsbD_extractLsb', hread, State.operand, operandAt_accumulator, BitVec.ushiftRight_zero]

/-- A register write and the completion behind it: the registers and pc, and nothing else (R29, R165). -/
theorem State.complete_regWrite (s : State) (w : Width) (n : BitVec 4) (rex : Bool) (v : Word) (len : Nat) :
    (s.regWrite w n rex v).complete len =
      { s with x := (s.regWrite w n rex v).x, pc := s.pcWrap (s.pc + BitVec.ofNat 64 len), intShadow := false } := by
  obtain ⟨j, a, hset⟩ := s.regWrite_eq_setReg w n rex v
  rw [hset]
  rfl

/-- A load from a direct offset whose access passes: the value of its bytes, in the accumulator (R166 to R170). -/
theorem moveFromMoffs_of_access (hlock : p.lock = false)
    (hpass : s.access (s.segOf p .ds) off.value w.bytes .read = .ok phys) :
    ∃ t v, moveFromMoffs w p len off s = .next t
      ∧ bytesRead s phys w.bytes v
      ∧ registerWritten s t w 0 p.hasRex v
      ∧ t = { s with x := t.x, pc := s.pcWrap (s.pc + BitVec.ofNat 64 len), intShadow := false }
      ∧ sameMemory s t := by
  let v := leValue ((s.byteAddrs phys w.bytes).map s.mem.read)
  have hload : s.loadOp (s.moffsSeg p) off.value w.bytes = .ok v := loadOp_of_access s _ _ _ phys hpass
  refine ⟨(s.regWrite w 0 p.hasRex v).complete len, v, ?_, bytesRead_leValue s phys _ (width_bytes_le w), ?_, ?_, ?_⟩
  · exact moveStep_eq_next.2 ⟨hlock, _, by rw [hload]; rfl, rfl⟩
  · exact registerWritten_of_reg s _ _ _ _ _ _ (fun _ => rfl) (regWrite_written s w 0 p.hasRex v)
  · exact s.complete_regWrite w 0 p.hasRex v len
  · intro a
    rw [State.complete_mem, State.regWrite_mem]

/-- A store to a direct offset whose access passes and whose bytes miss the text: the low bytes of the accumulator, and
nothing else (R171 to R175). -/
theorem moveToMoffs_of_access (hlock : p.lock = false) (hwf : Memory.wf s.mem)
    (hpass : s.access (s.segOf p .ds) off.value w.bytes .write = .ok phys)
    (htext : s.hitsText (s.linear (s.segOf p .ds) off.value) w.bytes = false) :
    ∃ t, moveToMoffs w p len off s = .next t
      ∧ bytesWritten s t phys w.bytes (s.reg 0)
      ∧ t = { s with mem := t.mem, pc := s.pcWrap (s.pc + BitVec.ofNat 64 len), intShadow := false } := by
  have hstore := storeOp_of_access s (s.moffsSeg p) off.value w.bytes (s.regRead w 0 p.hasRex) phys hpass htext
  refine ⟨_, moveStep_eq_next.2 ⟨hlock, _, hstore, rfl⟩, ?_, rfl⟩
  exact bytesWritten_congr (fun k => byteOf_regRead_accumulator)
    (bytesWritten_writeAll s _ phys w.bytes _ (width_bytes_le w) hwf rfl)

end

/-- Settles O20: each row is the load at its width. -/
theorem offsetToAccumulator : Obligations.OffsetToAccumulator := by
  intro s p off w i phys hrow hlock hpass
  have hexec : exec i s = moveFromMoffs w p i.size off s := by
    simp only [List.mem_cons, Prod.mk.injEq, List.not_mem_nil, or_false] at hrow
    rcases hrow with ⟨rfl, rfl⟩ | ⟨rfl, rfl⟩ | ⟨rfl, rfl⟩ | ⟨rfl, rfl⟩ | ⟨rfl, rfl⟩ <;> rfl
  rw [hexec]
  exact moveFromMoffs_of_access hlock hpass

/-- Settles O21: each row is the store at its width. -/
theorem accumulatorToOffset : Obligations.AccumulatorToOffset := by
  intro s p off w i phys hrow hlock hwf hpass htext
  have hexec : exec i s = moveToMoffs w p i.size off s := by
    simp only [List.mem_cons, Prod.mk.injEq, List.not_mem_nil, or_false] at hrow
    rcases hrow with ⟨rfl, rfl⟩ | ⟨rfl, rfl⟩ | ⟨rfl, rfl⟩ | ⟨rfl, rfl⟩ | ⟨rfl, rfl⟩ <;> rfl
  rw [hexec]
  exact moveToMoffs_of_access hlock hwf hpass htext

end Sys2Proof.Machine
end

section
/-! PROOF. LOCK on every row, and the moves to and from control and debug registers in V86 (30_encoding.md R106;
40_mov_general.md R163; 41_mov_segment.md R220; 42_mov_control.md R249; 43_mov_debug.md R278; 60_exceptions.md R307). -/

namespace Sys2Proof.Machine

section
variable {s : State} {p : Prefixes} {len : Nat} {g : BitVec 3} {rm : Rm}

/-! ## MOV-Move -/

theorem moveStep_of_lock {e : Except Stop State} (hlock : p.lock = true) : moveStep p len s e = raises s .ud :=
  if_pos hlock

/-- #UD under LOCK, and for a number that names no segment register (R220). -/
theorem moveFromSreg_of_lock (hlock : p.lock = true) : moveFromSreg p len g rm s = raises s .ud := by
  unfold moveFromSreg
  split
  · rfl
  · exact moveStep_of_lock hlock

theorem moveToSreg_of_lock (hlock : p.lock = true) : moveToSreg p len g rm s = raises s .ud := if_pos hlock

end

/-- Settles O44: each class of moves raises #UD under LOCK before anything else. -/
theorem lockOnMoves : Obligations.LockOnMoves := by
  intro s i hlock hmove
  cases i with
  | movRm16Sreg | movRm64Sreg => exact moveFromSreg_of_lock hlock
  | movSregRm16 | movSregRm64 => exact moveToSreg_of_lock hlock
  | movR32Cr | movR64Cr | movR64Cr8 | movCrR32 | movCrR64 | movCr8R64 | movR32Dr | movR64Dr | movDrR32 | movDrR64 =>
    cases hmove
  | _ => exact moveStep_of_lock hlock

/-! ## MOV-CR and MOV-DR -/

section
variable {s : State} {i : Instr} {e : Exception}

/-- What a MOV to or from a control or debug register raises before it looks at its fields (R238, R277): the exception of
LOCK, and #GP(0) in V86. -/
def State.systemFault (s : State) (p : Prefixes) : Option Exception :=
  if p.lock then some s.lockFault else if s.mode = .v86 then some s.gp0 else none

theorem State.crFault_of_systemFault {p : Prefixes} (c : BitVec 4) (h : s.systemFault p = some e) :
    s.crFault p c = some e := by
  unfold State.systemFault at h
  unfold State.crFault
  grind

theorem State.drFault_of_systemFault {p : Prefixes} (d : BitVec 3) (h : s.systemFault p = some e) :
    s.drFault p d = some e := by
  unfold State.systemFault at h
  unfold State.drFault
  grind

section
variable {w : Width} {p : Prefixes} {len : Nat} {rm : BitVec 3}

theorem moveFromCr_of_crFault {c : BitVec 4} (h : s.crFault p c = some e) : moveFromCr w p len c rm s = raises s e := by
  rw [moveFromCr, h]
  rfl

theorem moveToCr_of_crFault {c : BitVec 4} (h : s.crFault p c = some e) : moveToCr w p len c rm s = raises s e := by
  rw [moveToCr, h]
  rfl

theorem moveFromDr_of_drFault {d : BitVec 3} (h : s.drFault p d = some e) : moveFromDr w p len d rm s = raises s e := by
  rw [moveFromDr, h]
  rfl

theorem moveToDr_of_drFault {d : BitVec 3} (h : s.drFault p d = some e) : moveToDr w p len d rm s = raises s e := by
  rw [moveToDr, h]
  rfl

end

/-- These two checks come first in all ten rows of MOV-CR and MOV-DR (R238, R277). -/
theorem exec_of_systemFault (hi : i.isMove = false) (h : s.systemFault i.prefixes = some e) :
    exec i s = raises s e := by
  cases i with
  | movR32Cr | movR64Cr | movR64Cr8 => exact moveFromCr_of_crFault (State.crFault_of_systemFault _ h)
  | movCrR32 | movCrR64 | movCr8R64 => exact moveToCr_of_crFault (State.crFault_of_systemFault _ h)
  | movR32Dr | movR64Dr => exact moveFromDr_of_drFault (State.drFault_of_systemFault _ h)
  | movDrR32 | movDrR64 => exact moveToDr_of_drFault (State.drFault_of_systemFault _ h)
  | _ => cases hi

theorem State.lockFault_of_ne_v86 (hm : s.mode ≠ .v86) : s.lockFault = .ud := by
  simp [State.lockFault, hm]

/-- In V86 either exception may come of LOCK (R307). -/
theorem State.lockFault_cases (s : State) : s.lockFault = .ud ∨ s.lockFault = s.gp0 := by
  unfold State.lockFault
  split
  · exact .inr rfl
  · exact .inl rfl

end

/-- Settles O45: LOCK and V86 are the first two checks, in this order. -/
theorem systemMovesUnderLockAndV86 : Obligations.SystemMovesUnderLockAndV86 := by
  intro s i hi
  have hlock : i.prefixes.lock = true → exec i s = raises s s.lockFault := fun hl =>
    exec_of_systemFault hi (if_pos hl)
  have hgp : s.mode = .v86 → s.gp0 = .gp (some 0) := fun hm =>
    congrArg _ (State.zeroCode_of_ne_real (by simp [hm]))
  refine ⟨fun hl hm => ?_, fun hl hm => ?_, fun hl hm => ?_⟩
  · rw [hlock hl, State.lockFault_of_ne_v86 hm]
  · rw [← hgp hm]
    exact exec_of_systemFault hi (by simp [State.systemFault, hl, hm])
  · rw [hlock hl, ← hgp hm]
    exact s.lockFault_cases.imp (congrArg _) (congrArg _)

end Sys2Proof.Machine
end

section
/-! PROOF. The moves between general registers, memory and immediates (40_mov_general.md R150 to R164, R176 to R185). Every row
writes either one register operand or the bytes of one store: one lemma for each, under all the rows that call it. -/

namespace Sys2Proof.Machine

/-! ## What such an instruction leaves -/

/-- Completed, with a value in one register operand and nothing else written (R25, R29, R165). -/
def LeavesRegister (s t : State) (len : Nat) (w : Width) (n : BitVec 4) (rex : Bool) (v : Word) : Prop :=
  registerWritten s t w n rex v
    ∧ t = { s with x := t.x, pc := s.pcWrap (s.pc + BitVec.ofNat 64 len), intShadow := false }
    ∧ sameMemory s t

/-- Completed, with the bytes of a value in memory and nothing else written (R29, R75, R165). -/
def LeavesBytes (s t : State) (len : Nat) (phys : Word) (n : Nat) (v : Word) : Prop :=
  bytesWritten s t phys n v
    ∧ t = { s with mem := t.mem, pc := s.pcWrap (s.pc + BitVec.ofNat 64 len), intShadow := false }

section
variable {s t : State} {p : Prefixes} {len n : Nat} {w : Width} {r : BitVec 4} {rex : Bool} {v u phys : Word}

/-- Only the bits of the operand's width count in what a register write leaves (R24, R25). -/
theorem LeavesRegister.congr (hbits : ∀ k, k < w.bits → v.getLsbD k = u.getLsbD k)
    (h : LeavesRegister s t len w r rex v) : LeavesRegister s t len w r rex u :=
  ⟨registerWritten_congr s t w r rex v u hbits h.1, h.2⟩

theorem LeavesBytes.congr (hbytes : ∀ k, k < n → byteOf v k = byteOf u k) (h : LeavesBytes s t len phys n v) :
    LeavesBytes s t len phys n u :=
  ⟨bytesWritten_congr hbytes h.1, h.2⟩

/-- The bytes that a register operand gives are those of the operand (R24, R75). -/
theorem byteOf_regRead {k : Nat} (hk : k < w.bytes) : byteOf (s.regRead w r rex) k = byteOf (s.operand w r rex) k := by
  refine BitVec.eq_of_getLsbD_eq fun j hj => ?_
  have hwidth : 8 * k + j < w.bits := by
    rw [width_bits_eq]
    omega
  simp only [byteOf, BitVec.getLsbD_extractLsb', regRead_operand s w r rex (8 * k + j) hwidth]

/-! ## The two effects -/

/-- Without LOCK a move whose effect is one register write completes. -/
theorem moveStep_regWrite (hlock : p.lock = false) :
    ∃ t, moveStep p len s (.ok (s.regWrite w r rex v)) = .next t ∧ LeavesRegister s t len w r rex v := by
  refine ⟨(s.regWrite w r rex v).complete len, moveStep_eq_next.2 ⟨hlock, _, rfl, rfl⟩, ?_,
    s.complete_regWrite w r rex v len, fun a => ?_⟩
  · exact registerWritten_of_reg s _ _ _ _ _ _ (fun _ => rfl) (regWrite_written s w r rex v)
  · rw [State.complete_mem, State.regWrite_mem]

/-- Without LOCK a move whose effect is one store completes when the access passes and its bytes miss the text. -/
theorem moveStep_storeOp {q : Sreg} {off : Word} (hlock : p.lock = false) (hn : n ≤ 8) (hwf : Memory.wf s.mem)
    (hpass : s.access q off n .write = .ok phys) (htext : s.hitsText (s.linear q off) n = false) :
    ∃ t, moveStep p len s (s.storeOp q off n v) = .next t ∧ LeavesBytes s t len phys n v := by
  have hstore := storeOp_of_access s q off n v phys hpass htext
  exact ⟨_, moveStep_eq_next.2 ⟨hlock, _, hstore, rfl⟩, bytesWritten_writeAll s _ phys n v hn hwf rfl, rfl⟩

/-! ## The moves with a memory operand -/

/-- A store of a register operand: the bytes of the operand (R150 to R154). -/
theorem moveToRm_of_access {reg : BitVec 3} {m : MemForm} (hlock : p.lock = false) (hwf : Memory.wf s.mem)
    (hpass : s.access (s.segOf p (m.defaultSeg p)) (s.memOffset p len m) w.bytes .write = .ok phys)
    (htext : s.hitsText (s.linear (s.segOf p (m.defaultSeg p)) (s.memOffset p len m)) w.bytes = false) :
    ∃ t, moveToRm w p len reg (.mem m) s = .next t
      ∧ LeavesBytes s t len phys w.bytes (s.operand w (p.regNum reg) p.hasRex) := by
  obtain ⟨t, hnext, hleaves⟩ := moveStep_storeOp (len := len) (v := s.regRead w (p.regNum reg) p.hasRex) hlock
    (width_bytes_le w) hwf hpass htext
  exact ⟨t, hnext, hleaves.congr fun k => byteOf_regRead⟩

/-- A load whose access passes: the value of its bytes, in the register operand (R155 to R159). -/
theorem moveFromRm_of_access {reg : BitVec 3} {m : MemForm} (hlock : p.lock = false)
    (hpass : s.access (s.segOf p (m.defaultSeg p)) (s.memOffset p len m) w.bytes .read = .ok phys) :
    ∃ t v, moveFromRm w p len reg (.mem m) s = .next t
      ∧ bytesRead s phys w.bytes v
      ∧ LeavesRegister s t len w (p.regNum reg) p.hasRex v := by
  have hread : s.readRm p len w (.mem m) = .ok _ := loadOp_of_access s _ _ _ phys hpass
  obtain ⟨t, hnext, hleaves⟩ := moveStep_regWrite hlock
  refine ⟨t, _, ?_, bytesRead_leValue s phys w.bytes (width_bytes_le w), hleaves⟩
  rw [moveFromRm, hread]
  exact hnext

end

/-! ## The rows -/

/-- Settles O15: in either direction the effect is a register write of what RegRead answers, whose bits are the operand's. -/
theorem registerMoves : Obligations.RegisterMoves := by
  intro s p reg rm w i dst src hrow hlock
  have hexec : exec i s = moveStep p i.size s (.ok (s.regWrite w dst p.hasRex (s.regRead w src p.hasRex))) := by
    simp only [List.mem_cons, List.not_mem_nil, or_false] at hrow
    rcases hrow with hrow | hrow | hrow | hrow | hrow | hrow | hrow | hrow | hrow | hrow <;> cases hrow <;> rfl
  rw [hexec]
  obtain ⟨t, hnext, hleaves⟩ := moveStep_regWrite hlock
  exact ⟨t, hnext, hleaves.congr (regRead_operand s w src p.hasRex)⟩

/-- Settles O16: each row is the register write at its width. -/
theorem immediateToRegister : Obligations.ImmediateToRegister := by
  intro s p r v8 v16 v32 v64 w i v hrow hlock
  have hexec : exec i s = moveStep p i.size s (.ok (s.regWrite w (p.rmNum r) p.hasRex v)) := by
    simp only [List.mem_cons, List.not_mem_nil, or_false] at hrow
    rcases hrow with hrow | hrow | hrow | hrow | hrow <;> cases hrow <;> rfl
  rw [hexec]
  exact moveStep_regWrite hlock

/-- Settles O17: each row is the register write at its width, row 34 of the immediate already extended. -/
theorem immediateToRmRegister : Obligations.ImmediateToRmRegister := by
  intro s p rm v8 v16 v32 w i v hrow hlock
  have hexec : exec i s = moveStep p i.size s (.ok (s.regWrite w (p.rmNum rm) p.hasRex v)) := by
    simp only [List.mem_cons, List.not_mem_nil, or_false] at hrow
    rcases hrow with hrow | hrow | hrow | hrow | hrow <;> cases hrow <;> rfl
  rw [hexec]
  exact moveStep_regWrite hlock

/-- Settles O18: each row is the store at its width. -/
theorem registerToMemory : Obligations.RegisterToMemory := by
  intro s p reg m w i phys hrow hlock hwf hpass htext
  have hexec : exec i s = moveToRm w p i.size reg (.mem m) s := by
    simp only [List.mem_cons, List.not_mem_nil, or_false] at hrow
    rcases hrow with hrow | hrow | hrow | hrow | hrow <;> cases hrow <;> rfl
  rw [hexec]
  exact moveToRm_of_access hlock hwf hpass htext

/-- Settles O19: each row is the load at its width, from the address that the registers give before the write. -/
theorem memoryToRegister : Obligations.MemoryToRegister := by
  intro s p reg m w i phys hrow hlock hpass
  have hexec : exec i s = moveFromRm w p i.size reg (.mem m) s := by
    simp only [List.mem_cons, List.not_mem_nil, or_false] at hrow
    rcases hrow with hrow | hrow | hrow | hrow | hrow <;> cases hrow <;> rfl
  rw [hexec]
  exact moveFromRm_of_access hlock hpass

/-- Settles O22: each row is the store at its width, row 34 of the immediate already extended. -/
theorem immediateToMemory : Obligations.ImmediateToMemory := by
  intro s p m v8 v16 v32 w i v phys hrow hlock hwf hpass htext
  have hexec : exec i s = moveImmToRm w p i.size (.mem m) v s := by
    simp only [List.mem_cons, List.not_mem_nil, or_false] at hrow
    rcases hrow with hrow | hrow | hrow | hrow | hrow <;> cases hrow <;> rfl
  rw [hexec]
  exact moveStep_storeOp hlock (width_bytes_le w) hwf hpass htext

end Sys2Proof.Machine
end

section
/-! PROOF. Moves from a segment register (41_mov_segment.md R200 to R205) and the #UD conditions of rows 11 to 14 (R220): the
selector goes to a register at the operand size, or to two bytes of memory. -/

namespace Sys2Proof.Machine

/-! ## The selector in a register -/

/-- Completed, with a selector in one register operand below a half-word `h` (R203, R204); only the count of free values
changes besides. -/
structure LeavesSelector (s t : State) (len : Nat) (w : Width) (n : BitVec 4) (rex : Bool) (sel h : BitVec 16) : Prop where
  written : registerWritten s t w n rex ((h ++ sel).setWidth 64)
  frame : t = { s with x := t.x, pc := s.pcWrap (s.pc + BitVec.ofNat 64 len), intShadow := false, draws := t.draws }
  memory : sameMemory s t

section
variable {s : State} {p : Prefixes} {len : Nat} {g rm : BitVec 3} {r : Sreg} {sel : BitVec 16}

theorem setWidth_zero_append (sel : BitVec 16) : ((0 : BitVec 16) ++ sel).setWidth 64 = sel.setWidth 64 := by
  refine BitVec.eq_of_toNat_eq ?_
  rw [BitVec.toNat_setWidth, BitVec.toNat_append, BitVec.toNat_setWidth]
  simp

/-- Bits 31:16 of a 32-bit register are 0 in LONG64 and on P4_XEON_P6 (R204, log 38). -/
theorem State.hi16Free_eq_false (h : s.mode = .long64 ∨ s.par.procFamily = .p4XeonP6) : s.hi16Free = false := by
  rcases h with h | h <;> simp [State.hi16Free, ProcFamily.zeroHi16, h]

/-- A selector goes to a register at the operand size, below a half-word that R204 fixes as 0 except at 32 bits on some
processors outside LONG64. -/
theorem State.writeSelector_reg (s : State) (p : Prefixes) (len : Nat) (rm : BitVec 3) (sel : BitVec 16) :
    ∃ (h : BitVec 16) (d : Nat), s.writeSelector p len (.reg rm) sel =
        .ok { s.regWrite (opSize s.ctx p) (p.rmNum rm) p.hasRex ((h ++ sel).setWidth 64) with draws := d }
      ∧ (opSize s.ctx p ≠ .b32 ∨ s.mode = .long64 ∨ s.par.procFamily = .p4XeonP6 → h = 0 ∧ d = s.draws) := by
  have hzero : ∀ w, s.regWrite w (p.rmNum rm) p.hasRex (sel.setWidth 64) =
      { s.regWrite w (p.rmNum rm) p.hasRex (((0 : BitVec 16) ++ sel).setWidth 64) with draws := s.draws } := by
    intro w
    rw [setWidth_zero_append, ← State.regWrite_draws s w (p.rmNum rm) p.hasRex (sel.setWidth 64)]
  by_cases hsize : opSize s.ctx p = .b32
  · have hwrite : s.writeSelector p len (.reg rm) sel = .ok (s.selToReg32 (p.rmNum rm) p.hasRex sel) := by
      simp only [State.writeSelector, hsize]
    rw [hwrite, hsize, State.selToReg32]
    by_cases hfree : s.hi16Free = true
    · refine ⟨Config.draw16 s.draws, s.draws + 1, by rw [if_pos hfree], fun hfixed => ?_⟩
      rw [State.hi16Free_eq_false (hfixed.resolve_left (· rfl))] at hfree
      cases hfree
    · exact ⟨0, s.draws, by rw [if_neg hfree, hzero], fun _ => ⟨rfl, rfl⟩⟩
  · refine ⟨0, s.draws, ?_, fun _ => ⟨rfl, rfl⟩⟩
    rw [← hzero]
    rcases opSize_cases s.ctx p with h | h | h
    · simp only [State.writeSelector, h, State.writeRm]
    · exact absurd h hsize
    · simp only [State.writeSelector, h, State.writeRm]

/-- Without LOCK the row of a segment register writes its selector (R203, R205). -/
theorem moveFromSreg_of_sreg {rm : Rm} (hg : sregOf g = some r) :
    moveFromSreg p len g rm s = moveStep p len s (s.writeSelector p len rm (s.sreg r).sel) := by
  rw [moveFromSreg, hg]

theorem moveFromSreg_reg (hg : sregOf g = some r) (hlock : p.lock = false) :
    ∃ t h, moveFromSreg p len g (.reg rm) s = .next t
      ∧ (opSize s.ctx p ≠ .b32 ∨ s.mode = .long64 ∨ s.par.procFamily = .p4XeonP6 → h = 0 ∧ t.draws = s.draws)
      ∧ LeavesSelector s t len (opSize s.ctx p) (p.rmNum rm) p.hasRex (s.sreg r).sel h := by
  obtain ⟨h, d, hwrite, hfixed⟩ := s.writeSelector_reg p len rm (s.sreg r).sel
  rw [moveFromSreg_of_sreg hg]
  refine ⟨_, h, moveStep_eq_next.2 ⟨hlock, _, hwrite, rfl⟩, hfixed, ?_, ?_, fun a => ?_⟩
  · exact registerWritten_of_reg s _ _ _ _ _ _ (fun _ => rfl) (regWrite_written s _ _ _ _)
  · obtain ⟨j, a, hset⟩ := s.regWrite_eq_setReg (opSize s.ctx p) (p.rmNum rm) p.hasRex ((h ++ (s.sreg r).sel).setWidth 64)
    rw [hset]
    rfl
  · rw [State.complete_mem, State.regWrite_mem]

/-- The low half-word of the register operand is the selector, at every operand size (R203, R205). -/
theorem LeavesSelector.setWidth_reg {t : State} {w : Width} {n : BitVec 4} {rex : Bool} {h : BitVec 16} (hw : w ≠ .b8)
    (ht : LeavesSelector s t len w n rex sel h) : (t.reg n).setWidth 16 = sel := by
  have hat : operandAt w n rex = (n, 0) := if_neg fun hb => hw hb.1
  have hbits : 16 ≤ w.bits := by
    cases w
    · exact absurd rfl hw
    all_goals decide
  refine BitVec.eq_of_getLsbD_eq fun k hk => ?_
  have hbit := ht.written n k (by omega)
  simp only [hat, Nat.zero_le, Nat.zero_add, true_and, if_pos (show k < w.bits by omega), if_true, Nat.sub_zero] at hbit
  rw [BitVec.getLsbD_setWidth, hbit, BitVec.getLsbD_setWidth, BitVec.getLsbD_append]
  simp only [hk, show k < 64 by omega, decide_true, Bool.true_and, if_true]

/-! ## The selector in memory -/

/-- The two bytes of a selector are stored, whatever the operand size (R201). -/
theorem moveFromSreg_mem {m : MemForm} {phys : Word} (hg : sregOf g = some r) (hlock : p.lock = false)
    (hwf : Memory.wf s.mem)
    (hpass : s.access (s.segOf p (m.defaultSeg p)) (s.memOffset p len m) 2 .write = .ok phys)
    (htext : s.hitsText (s.linear (s.segOf p (m.defaultSeg p)) (s.memOffset p len m)) 2 = false) :
    ∃ t, moveFromSreg p len g (.mem m) s = .next t ∧ LeavesBytes s t len phys 2 ((s.sreg r).sel.setWidth 64) := by
  rw [moveFromSreg_of_sreg hg]
  exact moveStep_storeOp hlock (by decide) hwf hpass htext

end

/-- The number of each segment register (R110, R200). -/
theorem sregOf_of_mem {g : BitVec 3} {r : Sreg}
    (h : (g, r) ∈ [((0 : BitVec 3), Sreg.es), (1, .cs), (2, .ss), (3, .ds), (4, .fs), (5, .gs)]) : sregOf g = some r := by
  simp only [List.mem_cons, List.not_mem_nil, or_false] at h
  rcases h with h | h | h | h | h | h <;> cases h <;> rfl

/-- Settles O24: the half-word above the selector is the one that R204 leaves free, or 0. -/
theorem selectorToRegister : Obligations.SelectorToRegister := by
  intro s p g rm r i hi hg hlock
  have hexec : exec i s = moveFromSreg p i.size g (.reg rm) s := by rcases hi with rfl | rfl <;> rfl
  obtain ⟨t, h, hnext, hfixed, ht⟩ := moveFromSreg_reg (sregOf_of_mem hg) hlock
  exact ⟨t, h, hexec.trans hnext, hfixed, ht.written, ht.frame, ht.memory⟩

/-- Settles O25: both rows are the two-byte store. -/
theorem selectorToMemory : Obligations.SelectorToMemory := by
  intro s p g m r i phys hi hg hlock hwf hpass htext
  have hexec : exec i s = moveFromSreg p i.size g (.mem m) s := by rcases hi with rfl | rfl <;> rfl
  rw [hexec]
  exact moveFromSreg_mem (sregOf_of_mem hg) hlock hwf hpass htext

/-! ## #UD -/

section
variable {s : State} {p : Prefixes} {len : Nat} {g : BitVec 3} {rm : Rm} {r : Sreg}

/-- #UD for a destination that is CS or no segment register (R220). -/
theorem moveToSreg_of_bad (hg : sregOf g = none ∨ sregOf g = some .cs) : moveToSreg p len g rm s = raises s .ud := by
  unfold moveToSreg
  split
  · rfl
  · rcases hg with hg | hg <;> rw [hg] <;> rfl

/-- #UD for a source that is no segment register (R220). -/
theorem moveFromSreg_of_none (hg : sregOf g = none) : moveFromSreg p len g rm s = raises s .ud := by
  rw [moveFromSreg, hg]
  rfl

/-- Only a check of its access makes a store raise an exception (R71, R89). -/
theorem State.access_of_storeOp_exception {q : Sreg} {off v : Word} {n : Nat} {e : Exception}
    (h : s.storeOp q off n v = .error (.exception e)) : s.access q off n .write = .error (.exception e) := by
  unfold State.storeOp at h
  split at h
  · cases h
    assumption
  · split at h <;> cases h

/-- No check of a data access is #UD (R301, R302). -/
theorem State.access_ne_ud {q : Sreg} {off : Word} {n : Nat} {acc : Access} :
    s.access q off n acc ≠ .error (.exception .ud) := by
  intro h
  rcases access_exception s q off n acc .ud h with he | he | ⟨-, he | ⟨_, he⟩⟩ <;> cases he

theorem State.writeSelector_ne_ud {sel : BitVec 16} : s.writeSelector p len rm sel ≠ .error (.exception .ud) := by
  cases rm with
  | reg q =>
    obtain ⟨h, d, hwrite, -⟩ := s.writeSelector_reg p len q sel
    rw [hwrite]
    nofun
  | mem m => exact fun hstore => State.access_ne_ud (State.access_of_storeOp_exception hstore)

/-- Without LOCK a move from a segment register raises no #UD: the writing of the selector could only meet the checks of its
access (R220, R221). -/
theorem moveFromSreg_ne_ud (hg : sregOf g = some r) (hlock : p.lock = false) :
    moveFromSreg p len g rm s ≠ raises s .ud := by
  intro hud
  rw [moveFromSreg_of_sreg hg, moveStep, hlock] at hud
  obtain ⟨e, herr, he⟩ := settle_eq_fault hud
  cases he
  exact State.writeSelector_ne_ud (except_map_eq_error herr)

end

/-- Settles O26: the conditions come before the operand, and CS is a segment register that may be read. -/
theorem badSegmentRegister : Obligations.BadSegmentRegister := by
  intro s p g rm
  have hcs : sregOf 1 = some .cs := rfl
  refine ⟨fun hlock i hi => ?_, fun hg => ?_, fun hg => ?_, fun hlock i hi => ?_⟩
  · simp only [List.mem_cons, List.not_mem_nil, or_false] at hi
    rcases hi with rfl | rfl | rfl | rfl
    · exact moveFromSreg_of_lock hlock
    · exact moveFromSreg_of_lock hlock
    · exact moveToSreg_of_lock hlock
    · exact moveToSreg_of_lock hlock
  · have hbad : sregOf g = none ∨ sregOf g = some .cs := by
      rcases hg with rfl | rfl | rfl
      · exact .inr hcs
      · exact .inl rfl
      · exact .inl rfl
    exact ⟨moveToSreg_of_bad hbad, moveToSreg_of_bad hbad⟩
  · have hnone : sregOf g = none := by rcases hg with rfl | rfl <;> rfl
    exact ⟨moveFromSreg_of_none hnone, moveFromSreg_of_none hnone⟩
  · have hexec : exec i s = moveFromSreg p i.size 1 rm s := by
      simp only [List.mem_cons, List.not_mem_nil, or_false] at hi
      rcases hi with rfl | rfl <;> rfl
    rw [hexec]
    refine ⟨moveFromSreg_ne_ud hcs hlock, fun q hq => ?_⟩
    subst hq
    obtain ⟨t, h, hnext, -, ht⟩ := moveFromSreg_reg (len := i.size) (rm := q) hcs hlock
    have hwide : opSize s.ctx p ≠ .b8 := by rcases opSize_cases s.ctx p with hw | hw | hw <;> simp [hw]
    exact ⟨t, hnext, ht.setWidth_reg hwide⟩

end Sys2Proof.Machine
end

section
/-! PROOF. Moves to a segment register (41_mov_segment.md R206 to R218): the selector is read, the segment is loaded or the
load raises its exception, and a load of SS starts the interrupt inhibition. One lemma for each way a load can go. -/

namespace Sys2Proof.Machine

/-! ## Selectors -/

section
variable {sel : BitVec 16}

theorem toNat_rpl (sel : BitVec 16) : (rpl sel).toNat = sel.toNat % 4 := by
  simp [rpl]

theorem rpl_eq_iff {c : BitVec 2} : rpl sel = c ↔ sel.toNat % 4 = c.toNat := by
  rw [← BitVec.toNat_inj, toNat_rpl]

theorem isNull_eq_false (h : 4 ≤ sel.toNat) : isNull sel = false :=
  Bool.eq_false_iff.2 fun hnull => absurd ((isNull_iff sel).1 hnull) (by omega)

/-- A value with the two bytes of a selector has it as its low half-word (R75, R201). -/
theorem setWidth_eq_of_byteOf {v : Word} (h : ∀ k, k < 2 → byteOf v k = byteOf (sel.setWidth 64) k) :
    v.setWidth 16 = sel := by
  refine BitVec.eq_of_getLsbD_eq fun j hj => ?_
  have hbit := congrArg (BitVec.getLsbD · (j % 8)) (h (j / 8) (by omega))
  simp only [byteOf, BitVec.getLsbD_extractLsb', Nat.div_add_mod, BitVec.getLsbD_setWidth,
    show j % 8 < 8 by omega, show j < 64 by omega, decide_true, Bool.true_and] at hbit
  rw [BitVec.getLsbD_setWidth, hbit, decide_eq_true hj, Bool.true_and]

/-- The selector's source gives it in the low 16 bits of the word that is read (R201, R206). -/
theorem State.readRm_of_source {s : State} {p : Prefixes} {len : Nat} {rm : Rm} (h : selectorSource s p len rm sel) :
    ∃ v, s.readRm p len .b16 rm = .ok v ∧ v.setWidth 16 = sel := by
  cases rm with
  | reg g =>
    refine ⟨_, rfl, ?_⟩
    rw [show sel = _ from h]
    exact BitVec.setWidth_setWidth_of_le _ (by decide)
  | mem m =>
    obtain ⟨phys, hpass, hread⟩ := h
    refine ⟨_, loadOp_of_access s _ _ _ phys hpass, setWidth_eq_of_byteOf fun k hk => ?_⟩
    exact (bytesRead_leValue s phys 2 (by decide) k hk).trans (hread k hk).symm

end

/-! ## The rows -/

/-- The instruction `i` is a load of the segment register `r` with a selector, and nothing stops it before the load (R206). -/
def LoadsSelector (s : State) (i : Instr) (r : Sreg) (sel : BitVec 16) : Prop :=
  exec i s = settle s ((s.loadSeg r sel).map fun t => t.completeLoad r i.size)

/-- Without LOCK, rows 13 and 14 load the selector that they read, for every segment register but CS (R206, R207, R220). -/
theorem loadsSelector_of_row {s : State} {p : Prefixes} {g : BitVec 3} {rm : Rm} {r : Sreg} {i : Instr} {sel : BitVec 16}
    (hi : i = .movSregRm16 p g rm ∨ i = .movSregRm64 p g rm) (hg : sregOf g = some r) (hcs : r ≠ .cs)
    (hlock : p.lock = false) (hsource : selectorSource s p i.size rm sel) : LoadsSelector s i r sel := by
  have hexec : exec i s = moveToSreg p i.size g rm s := by rcases hi with rfl | rfl <;> rfl
  obtain ⟨v, hread, rfl⟩ := State.readRm_of_source hsource
  rw [LoadsSelector, hexec]
  cases r with
  | cs => exact absurd rfl hcs
  | es | ss | ds | fs | gs => simp only [moveToSreg, hlock, hg, hread, Bool.false_eq_true, if_false]

/-- DS, ES, FS and GS by their numbers (R110, R212). -/
theorem sregOf_data {g : BitVec 3} {r : Sreg}
    (h : (g, r) ∈ [((0 : BitVec 3), Sreg.es), (3, .ds), (4, .fs), (5, .gs)]) : sregOf g = some r ∧ r ≠ .cs ∧ r ≠ .ss := by
  simp only [List.mem_cons, List.not_mem_nil, or_false] at h
  rcases h with h | h | h | h <;> cases h <;> exact ⟨rfl, nofun, nofun⟩

/-- Every segment register that can be loaded, by its number (R110, R220). -/
theorem sregOf_loadable {g : BitVec 3} {r : Sreg}
    (h : (g, r) ∈ [((0 : BitVec 3), Sreg.es), (2, .ss), (3, .ds), (4, .fs), (5, .gs)]) : sregOf g = some r ∧ r ≠ .cs := by
  simp only [List.mem_cons, List.not_mem_nil, or_false] at h
  rcases h with h | h | h | h | h <;> cases h <;> exact ⟨rfl, nofun⟩

/-! ## What a load leaves -/

/-- Completed, with `v` in the segment register `r`, `n` free values drawn by then, and the interrupt inhibition started by a
load of SS that does not stand under it already (R206, R214, R218). -/
structure LeavesSegment (s t : State) (len : Nat) (r : Sreg) (v : SegReg) (n : Nat) : Prop where
  loaded : t.sreg r = v
  others : ∀ q, q ≠ r → t.sreg q = s.sreg q
  clears : r ≠ .ss → t.intShadow = false ∧ t.draws = n
  inhibits : r = .ss → s.intShadow = false → t.intShadow = true ∧ t.draws = n
  frame : t = { s with seg := t.seg, pc := s.pcWrap (s.pc + BitVec.ofNat 64 len), intShadow := t.intShadow,
                       draws := t.draws }
  memory : sameMemory s t

section
variable {s : State} {i : Instr} {r : Sreg} {sel : BitVec 16} {v : SegReg} {n : Nat} {d : Desc}

theorem State.sreg_completeLoad (s : State) (r q : Sreg) (len : Nat) : (s.completeLoad r len).sreg q = s.sreg q := by
  obtain ⟨_, _, h⟩ := s.completeLoad_eq r len
  rw [h]
  cases q <;> rfl

theorem leavesSegment_completeLoad (s : State) (r : Sreg) (v : SegReg) (n len : Nat) :
    LeavesSegment s (State.completeLoad { s.setSreg r v with draws := n } r len) len r v n where
  loaded := by
    rw [State.sreg_completeLoad]
    exact (s.sreg_setSreg r r v).trans (if_pos rfl)
  others q hq := by
    rw [State.sreg_completeLoad]
    exact (s.sreg_setSreg r q v).trans (if_neg hq.symm)
  clears hr := by
    rw [State.completeLoad, if_neg hr]
    exact ⟨rfl, rfl⟩
  inhibits hr hshadow := by
    subst hr
    rw [State.completeLoad, if_pos rfl, if_neg (by simp [hshadow])]
    exact ⟨rfl, rfl⟩
  frame := by
    obtain ⟨b, m, h⟩ := State.completeLoad_eq { s.setSreg r v with draws := n } r len
    rw [h]
    cases r <;> rfl
  memory a := by
    rw [State.completeLoad_mem, State.setSreg_mem]

/-- After a load of another segment register than SS the inhibition and the count are known (R218). -/
theorem LeavesSegment.frame_of_ne_ss {t : State} {len : Nat} (h : LeavesSegment s t len r v n) (hr : r ≠ .ss) :
    t = { s with seg := t.seg, pc := s.pcWrap (s.pc + BitVec.ofNat 64 len), intShadow := false, draws := n } := by
  obtain ⟨hshadow, hdraws⟩ := h.clears hr
  have hframe := h.frame
  rwa [hshadow, hdraws] at hframe

theorem LoadsSelector.completes (h : LoadsSelector s i r sel)
    (hload : s.loadSeg r sel = .ok { s.setSreg r v with draws := n }) :
    ∃ t, exec i s = .next t ∧ LeavesSegment s t i.size r v n := by
  refine ⟨_, ?_, leavesSegment_completeLoad s r v n i.size⟩
  rw [h, hload]
  rfl

theorem LoadsSelector.raises {e : Exception} (h : LoadsSelector s i r sel)
    (hload : s.loadSeg r sel = .error (.exception e)) : exec i s = raises s e := by
  rw [h, hload]
  rfl

theorem State.setSreg_eq (s : State) (r : Sreg) (v : SegReg) : s.setSreg r v = { s.setSreg r v with draws := s.draws } := by
  cases r <;> rfl

/-! ## LoadSegReal -/

/-- In REAL and V86 the base is 16 times the selector, whatever it is (R216). -/
theorem State.loadSeg_of_real (hm : s.mode = .real ∨ s.mode = .v86) :
    s.loadSeg r sel =
      .ok { s.setSreg r { sel := sel, hidden := { (s.sreg r).hidden with base := BitVec.ofNat 64 (16 * sel.toNat) } }
            with draws := s.draws } := by
  have hbase : sel.setWidth 64 * 16 = BitVec.ofNat 64 (16 * sel.toNat) := by
    refine BitVec.eq_of_toNat_eq ?_
    simp [Nat.mul_comm]
  rw [← State.setSreg_eq, ← hbase]
  rcases hm with hm | hm <;> simp only [State.loadSeg, hm, State.loadSegReal]

/-! ## LoadData -/

/-- The privilege test of a load of DS, ES, FS or GS passes: it does not apply to conforming code (R10, R212). -/
def PrivPasses (s : State) (sel : BitVec 16) (d : Desc) : Prop :=
  d.kind = .data ∨ d.conforming = false → privFail s.par.dataSegPrivCheck (rpl sel) s.cpl d.dpl = false

/-- The test in numbers, for both values of DATA_SEG_PRIV_CHECK (R10). -/
theorem privFail_eq_false_iff {check : PrivCheck} {cpl dpl : BitVec 2} :
    privFail check (rpl sel) cpl dpl = false ↔
      match check with
      | .both => sel.toNat % 4 ≤ dpl.toNat ∨ cpl.toNat ≤ dpl.toNat
      | .either => sel.toNat % 4 ≤ dpl.toNat ∧ cpl.toNat ≤ dpl.toNat := by
  cases check with
  | both => simp [privFail, BitVec.lt_def, toNat_rpl, imp_iff_not_or]
  | either => simp [privFail, BitVec.lt_def, toNat_rpl]

theorem State.loadSeg_of_data (hm : s.mode = .prot ∨ s.mode = .compat ∨ s.mode = .long64) (hr : r ≠ .ss) :
    s.loadSeg r sel = s.loadData r sel := by
  rcases hm with hm | hm | hm <;> simp only [State.loadSeg, hm, if_neg hr]

theorem State.loadData_of_null (h : sel.toNat < 4) : s.loadData r sel = .ok (s.loadNull r sel) := by
  rw [State.loadData, if_pos ((isNull_iff sel).2 h)]

theorem State.loadData_of_no_desc (h : 4 ≤ sel.toNat)
    (hd : s.descFetch sel = .outsideLimit ∨ s.descFetch sel = .nonCanonicalTable) :
    s.loadData r sel = .error (gpSel sel) := by
  rcases hd with hd | hd <;> simp [State.loadData, isNull_eq_false h, hd]

theorem State.loadData_of_desc (h : 4 ≤ sel.toNat) (hd : s.descFetch sel = .desc d) :
    s.loadData r sel = s.loadDataDesc r sel d := by
  simp [State.loadData, isNull_eq_false h, hd]

theorem State.loadDataDesc_of_bad_kind (h : ¬ (d.kind = .data ∨ (d.kind = .code ∧ d.readable = true))) :
    s.loadDataDesc r sel d = .error (gpSel sel) := if_pos h

/-- The listing's condition on the kind adds nothing once the kind itself has passed (R212). -/
theorem privFails_iff (hkind : d.kind = .data ∨ (d.kind = .code ∧ d.readable = true)) :
    (d.kind = .data ∨ (d.kind = .code ∧ d.conforming = false))
        ∧ privFail s.par.dataSegPrivCheck (rpl sel) s.cpl d.dpl = true ↔ ¬ PrivPasses s sel d := by
  rcases hkind with hdata | ⟨hcode, -⟩
  · simp [PrivPasses, hdata]
  · simp [PrivPasses, hcode]

theorem State.loadDataDesc_of_priv_fails (h : ¬ PrivPasses s sel d) : s.loadDataDesc r sel d = .error (gpSel sel) := by
  by_cases hkind : d.kind = .data ∨ (d.kind = .code ∧ d.readable = true)
  · rw [State.loadDataDesc, if_neg (not_not.2 hkind), if_pos ((privFails_iff hkind).2 h)]
  · exact State.loadDataDesc_of_bad_kind hkind

/-- A descriptor that passes the checks of its kind and privilege is loaded if the segment is present (R212, R214). -/
theorem State.loadDataDesc_of_passes (hkind : d.kind = .data ∨ (d.kind = .code ∧ d.readable = true))
    (hpriv : PrivPasses s sel d) :
    s.loadDataDesc r sel d =
      if d.present = false then .error (.exception (.np (selCode sel)))
      else .ok (s.setSreg r { sel := sel, hidden := d.loaded }) := by
  rw [State.loadDataDesc, if_neg (not_not.2 hkind), if_neg fun h => (privFails_iff hkind).1 h hpriv]

/-! ## LoadSS -/

theorem State.loadSeg_of_ss (hm : s.mode = .prot ∨ s.mode = .compat ∨ s.mode = .long64) :
    s.loadSeg .ss sel = s.loadSS sel := by
  rcases hm with hm | hm | hm <;> simp only [State.loadSeg, hm, if_true]

/-- A NULL selector is for LONG64, of the current level and below level 3 (R211). -/
theorem State.loadSS_of_null (h : sel.toNat < 4) :
    s.loadSS sel =
      if s.mode = .long64 ∧ s.cpl ≠ 3 ∧ rpl sel = s.cpl then .ok (s.loadNull .ss sel)
      else .error (.exception (.gp (some 0))) := by
  rw [State.loadSS, if_pos ((isNull_iff sel).2 h)]

theorem State.loadSS_of_no_desc (h : 4 ≤ sel.toNat)
    (hd : s.descFetch sel = .outsideLimit ∨ s.descFetch sel = .nonCanonicalTable) :
    s.loadSS sel = .error (gpSel sel) := by
  rcases hd with hd | hd <;> simp [State.loadSS, isNull_eq_false h, hd]

theorem State.loadSS_of_desc (h : 4 ≤ sel.toNat) (hd : s.descFetch sel = .desc d) :
    s.loadSS sel = s.loadSSDesc sel d := by
  simp [State.loadSS, isNull_eq_false h, hd]

/-- What the listing asks of the descriptor of a stack segment before it asks for its presence: a writable data segment of
the current level, under a selector of that level (R210). -/
def StackDescOk (s : State) (sel : BitVec 16) (d : Desc) : Prop :=
  sel.toNat % 4 = s.cpl.toNat ∧ d.kind = .data ∧ d.writable = true ∧ d.dpl = s.cpl

theorem stackDescOk_iff :
    ¬ (rpl sel ≠ s.cpl ∨ ¬ (d.kind = .data ∧ d.writable = true) ∨ d.dpl ≠ s.cpl) ↔ StackDescOk s sel d := by
  rw [StackDescOk, ← rpl_eq_iff]
  tauto

theorem State.loadSSDesc_of_not_ok (h : ¬ StackDescOk s sel d) : s.loadSSDesc sel d = .error (gpSel sel) :=
  if_pos (by_contra fun hbad => h (stackDescOk_iff.1 hbad))

/-- The presence of the segment is the last check (R210, R214). -/
theorem State.loadSSDesc_of_ok (h : StackDescOk s sel d) :
    s.loadSSDesc sel d =
      if d.present = false then .error (.exception (.ss (some (selCode sel))))
      else .ok (s.setSreg .ss { sel := sel, hidden := d.loaded }) :=
  if_neg (stackDescOk_iff.2 h)

end

/-! ## REAL and V86 -/

/-- Settles O27: LoadSegReal accepts every selector. -/
theorem segmentLoadReal : Obligations.SegmentLoadReal := by
  intro s p g rm r i sel hi hg hlock hm hsource
  obtain ⟨hsreg, hcs⟩ := sregOf_loadable hg
  obtain ⟨t, hnext, ht⟩ := (loadsSelector_of_row hi hsreg hcs hlock hsource).completes (State.loadSeg_of_real hm)
  exact ⟨t, hnext, ht.loaded, ht.others, ht.clears, ht.inhibits, ht.frame, ht.memory⟩

/-! ## DS, ES, FS and GS -/

/-- Settles O28: every check of LoadData passes. -/
theorem segmentLoadData : Obligations.SegmentLoadData := by
  intro s p g rm r i sel d hi hg hlock hm hsource hnull hd hkind hpriv hpresent
  obtain ⟨hsreg, hcs, hss⟩ := sregOf_data hg
  have hpasses : PrivPasses s sel d := fun happlies => privFail_eq_false_iff.2 (hpriv happlies)
  have hload : s.loadSeg r sel = .ok { s.setSreg r { sel := sel, hidden := d.loaded } with draws := s.draws } := by
    rw [State.loadSeg_of_data hm hss, State.loadData_of_desc hnull hd, State.loadDataDesc_of_passes hkind hpasses,
      if_neg (by simp [hpresent]), ← State.setSreg_eq]
  obtain ⟨t, hnext, ht⟩ := (loadsSelector_of_row hi hsreg hcs hlock hsource).completes hload
  exact ⟨t, hnext, ht.loaded, ht.others, ht.frame_of_ne_ss hss, ht.memory⟩

/-- Settles O29: each check of LoadData that fails, and the one of presence behind the others. -/
theorem segmentLoadDataFaults : Obligations.SegmentLoadDataFaults := by
  intro s p g rm r i sel hi hg hlock hm hsource hnull
  obtain ⟨hsreg, hcs, hss⟩ := sregOf_data hg
  have hrow := loadsSelector_of_row hi hsreg hcs hlock hsource
  have hdata := State.loadSeg_of_data (sel := sel) hm hss
  refine ⟨fun hd => hrow.raises (hdata.trans (State.loadData_of_no_desc hnull hd)), fun d hd => ?_⟩
  have hdesc := hdata.trans (State.loadData_of_desc hnull hd)
  refine ⟨fun hkind => hrow.raises (hdesc.trans (State.loadDataDesc_of_bad_kind hkind)), fun hpriv => ?_,
    fun hkind hpriv hpresent => ?_⟩
  · refine hrow.raises (hdesc.trans (State.loadDataDesc_of_priv_fails fun hpasses => hpriv fun happlies => ?_))
    exact privFail_eq_false_iff.1 (hpasses happlies)
  · have hpasses : PrivPasses s sel d := fun happlies => privFail_eq_false_iff.2 (hpriv happlies)
    exact hrow.raises (hdesc.trans ((State.loadDataDesc_of_passes hkind hpasses).trans (if_pos hpresent)))

/-- Settles O30: LoadDataNull takes every NULL selector. -/
theorem segmentLoadNull : Obligations.SegmentLoadNull := by
  intro s p g rm r i sel hi hg hlock hm hsource hnull
  obtain ⟨hsreg, hcs, hss⟩ := sregOf_data hg
  have hload := (State.loadSeg_of_data hm hss).trans (State.loadData_of_null hnull)
  obtain ⟨t, hnext, ht⟩ := (loadsSelector_of_row hi hsreg hcs hlock hsource).completes hload
  refine ⟨t, hnext, by rw [ht.loaded], ht.others, ?_, ht.memory⟩
  have hframe := ht.frame
  rwa [(ht.clears hss).1] at hframe

/-! ## SS -/

/-- Settles O31: every check of LoadSS passes, or a NULL selector is one that LONG64 allows. -/
theorem stackSegmentLoad : Obligations.StackSegmentLoad := by
  intro s p rm i sel hi hlock hm hsource hlevel
  have hrow := loadsSelector_of_row (r := .ss) hi rfl nofun hlock hsource
  refine ⟨fun d hsel hd hkind hwritable hdpl hpresent => ?_, fun hlong hsel hcpl => ?_⟩
  · have hok : StackDescOk s sel d := ⟨hlevel, hkind, hwritable, hdpl⟩
    have hload : s.loadSeg .ss sel = .ok { s.setSreg .ss { sel := sel, hidden := d.loaded } with draws := s.draws } := by
      rw [State.loadSeg_of_ss hm, State.loadSS_of_desc hsel hd, State.loadSSDesc_of_ok hok, if_neg (by simp [hpresent]),
        ← State.setSreg_eq]
    obtain ⟨t, hnext, ht⟩ := hrow.completes hload
    exact ⟨t, hnext, ht.loaded, ht.others, ht.inhibits rfl, ht.frame, ht.memory⟩
  · have hload : s.loadSeg .ss sel = .ok (s.loadNull .ss sel) := by
      rw [State.loadSeg_of_ss hm, State.loadSS_of_null hsel, if_pos ⟨hlong, hcpl, rpl_eq_iff.2 hlevel⟩]
    obtain ⟨t, hnext, ht⟩ := hrow.completes hload
    exact ⟨t, hnext, by rw [ht.loaded], ht.others, fun hshadow => (ht.inhibits rfl hshadow).1, ht.frame, ht.memory⟩

/-- Settles O32: each check of LoadSS that fails, in the order of the listing. -/
theorem stackSegmentFaults : Obligations.StackSegmentFaults := by
  intro s p rm i sel hi hlock hm hsource
  have hrow := loadsSelector_of_row (r := .ss) hi rfl nofun hlock hsource
  have hss := State.loadSeg_of_ss (sel := sel) hm
  refine ⟨fun hsel hbad => ?_, fun hsel hd => hrow.raises (hss.trans (State.loadSS_of_no_desc hsel hd)),
    fun d hsel hd => ?_⟩
  · refine hrow.raises (hss.trans ((State.loadSS_of_null hsel).trans (if_neg ?_)))
    rintro ⟨hlong, hcpl, hlevel⟩
    have hcpl' := rpl_eq_iff.1 hlevel
    rcases hbad with hmode | hthree | hne
    · exact hmode hlong
    · exact hcpl hthree
    · omega
  · have hdesc := hss.trans (State.loadSS_of_desc hsel hd)
    exact ⟨fun hbad => hrow.raises (hdesc.trans (State.loadSSDesc_of_not_ok hbad)),
      fun hok hpresent => hrow.raises (hdesc.trans ((State.loadSSDesc_of_ok hok).trans (if_pos hpresent)))⟩

end Sys2Proof.Machine
end

section
/-! PROOF. MOV to and from control registers (42_mov_control.md R230 to R253): the common checks, the read, and the write of
each control register. A write of a row is one call of CrWrite, so each statement about a row is one about that call. -/

namespace Sys2Proof.Machine

/-! ## The common checks -/

section
variable {s : State} {p : Prefixes} {c : BitVec 4} {w : Width} {len : Nat} {rm : BitVec 3}

/-- The numbers that name no control register raise #UD at every privilege level (R238). -/
theorem State.crFault_of_unnamed (hlock : p.lock = false) (hm : s.mode ≠ .v86)
    (hc : c ∈ [(1 : BitVec 4), 5, 6, 7, 9, 10, 11, 12, 13, 14, 15]) : s.crFault p c = some .ud := by
  have hud : (c = 1 ∨ c = 5 ∨ c = 6 ∨ c = 7) ∨ 9 ≤ c := by
    revert c
    decide
  unfold State.crFault
  rw [hlock, if_neg Bool.false_ne_true, if_neg hm]
  split
  · rfl
  · next hlow => exact if_pos (hud.resolve_left hlow)

/-- For a number that names a control register the privilege level is what remains to be checked (R238). -/
theorem State.crFault_of_named (hlock : p.lock = false) (hm : s.mode ≠ .v86) (hc : c ∈ [(0 : BitVec 4), 2, 3, 4, 8]) :
    s.crFault p c = if s.cpl ≠ 0 then some s.gp0 else none := by
  have hnamed : ¬ (c = 1 ∨ c = 5 ∨ c = 6 ∨ c = 7) ∧ ¬ 9 ≤ c := by
    revert c
    decide
  unfold State.crFault
  rw [hlock, if_neg Bool.false_ne_true, if_neg hm, if_neg hnamed.1, if_neg hnamed.2]

theorem State.crFault_of_level (hlock : p.lock = false) (hm : s.mode ≠ .v86) (hc : c ∈ [(0 : BitVec 4), 2, 3, 4, 8])
    (hcpl : s.cpl ≠ 0) : s.crFault p c = some s.gp0 :=
  (State.crFault_of_named hlock hm hc).trans (if_pos hcpl)

theorem State.crFault_eq_none (hlock : p.lock = false) (hm : s.mode ≠ .v86) (hc : c ∈ [(0 : BitVec 4), 2, 3, 4, 8])
    (hcpl : s.cpl = 0) : s.crFault p c = none :=
  (State.crFault_of_named hlock hm hc).trans (if_neg (not_not.2 hcpl))

/-- A processor without CR4 refuses a read of it that has passed the common checks (U9, log 20). -/
theorem moveFromCr_of_noCr4 (hpass : s.crFault p 4 = none) (hno : s.noCr4 = true) :
    moveFromCr w p len 4 rm s = .refused .noCr4 := by
  simp only [moveFromCr, hpass, hno, decide_true, Bool.and_self, if_true]

/-- A processor without CR4 refuses a write of it that has passed the common checks (U9, log 20). -/
theorem moveToCr_of_noCr4 (hpass : s.crFault p 4 = none) (hno : s.noCr4 = true) :
    moveToCr w p len 4 rm s = .refused .noCr4 := by
  simp only [moveToCr, hpass, hno, decide_true, Bool.and_self, if_true]

theorem noCr4_passes (h4 : c = 4 → s.noCr4 = false) : (decide (c = 4) && s.noCr4) = false := by
  by_cases hc : c = 4
  · rw [h4 hc, Bool.and_false]
  · rw [decide_eq_false hc, Bool.false_and]

end

/-- Settles O34: the checks in their order, each for rows 35 to 40 alike. -/
theorem controlFaults : Obligations.ControlFaults := by
  intro s p mod cr rm i hi hlock hm
  have hexec : ∃ w, exec i s = moveFromCr w p i.size (p.regNum cr) rm s
      ∨ exec i s = moveToCr w p i.size (p.regNum cr) rm s := by
    simp only [List.mem_cons, List.not_mem_nil, or_false] at hi
    rcases hi with rfl | rfl | rfl | rfl
    · exact ⟨.b32, .inl rfl⟩
    · exact ⟨.b64, .inl rfl⟩
    · exact ⟨.b32, .inr rfl⟩
    · exact ⟨.b64, .inr rfl⟩
  obtain ⟨w, hexec⟩ := hexec
  have hraises : ∀ e, s.crFault p (p.regNum cr) = some e → exec i s = raises s e := fun e he =>
    hexec.elim (·.trans (moveFromCr_of_crFault he)) (·.trans (moveToCr_of_crFault he))
  refine ⟨fun hc => hraises _ (State.crFault_of_unnamed hlock hm hc),
    fun hc hcpl => hraises _ (State.crFault_of_level hlock hm hc hcpl), fun hc hcpl hno => ?_, fun hcpl => ?_⟩
  · have hpass := State.crFault_eq_none hlock hm (c := 4) (by decide) hcpl
    rw [hc] at hexec
    exact hexec.elim (·.trans (moveFromCr_of_noCr4 hpass hno)) (·.trans (moveToCr_of_noCr4 hpass hno))
  · have hlevel := State.crFault_of_level hlock hm (c := 8) (by decide) hcpl
    exact ⟨moveFromCr_of_crFault hlevel, moveToCr_of_crFault hlevel⟩

/-! ## Reading -/

/-- Completed, with a value in one register, nothing else written but the six flags that are undefined, and the free values
counted that they took (R239, R253). -/
structure LeavesRead (s t : State) (len : Nat) (w : Width) (n : BitVec 4) (v : Word) : Prop where
  written : registerWritten s t w n false v
  ac : t.flags.ac = s.flags.ac
  frame : t = { s with x := t.x, pc := s.pcWrap (s.pc + BitVec.ofNat 64 len), flags := t.flags, intShadow := false,
                       draws := t.draws }
  memory : sameMemory s t

theorem leavesRead_regWrite (s : State) (len : Nat) (w : Width) (n : BitVec 4) (v : Word) :
    LeavesRead s ((s.regWrite w n false v).completeUndef len) len w n v where
  written := registerWritten_of_reg s _ _ _ _ _ _ (fun _ => rfl) (regWrite_written s w n false v)
  ac := by rw [State.completeUndef_ac, State.regWrite_flags]
  frame := by
    obtain ⟨j, a, hset⟩ := s.regWrite_eq_setReg w n false v
    rw [hset]
    rfl
  memory a := by rw [State.completeUndef_mem, State.regWrite_mem]

section
variable {s : State} {p : Prefixes} {mod : BitVec 2} {cr rm : BitVec 3} {w : Width} {i : Instr} {c : BitVec 4} {v : Word}

/-- What rows 35 and 36 read for each number that names a control register (R232, R233, R239). -/
theorem exec_readRow
    (hrow : (w, i, p.regNum cr, v) ∈ [(.b32, .movR32Cr p mod cr rm, 0, s.cr0), (.b32, .movR32Cr p mod cr rm, 2, s.cr2),
        (.b32, .movR32Cr p mod cr rm, 3, s.cr3), (.b32, .movR32Cr p mod cr rm, 4, s.cr4),
        (.b64, .movR64Cr p mod cr rm, 0, s.cr0), (.b64, .movR64Cr p mod cr rm, 2, s.cr2),
        (.b64, .movR64Cr p mod cr rm, 3, s.cr3), (.b64, .movR64Cr p mod cr rm, 4, s.cr4)]) :
    exec i s = moveFromCr w p i.size (p.regNum cr) rm s ∧ p.regNum cr ∈ [(0 : BitVec 4), 2, 3, 4, 8]
      ∧ s.crRead (p.regNum cr) = v := by
  simp only [List.mem_cons, List.not_mem_nil, or_false, Prod.mk.injEq] at hrow
  rcases hrow with hrow | hrow | hrow | hrow | hrow | hrow | hrow | hrow <;> obtain ⟨rfl, rfl, hc, rfl⟩ := hrow <;>
    exact ⟨rfl, by rw [hc]; decide, by rw [hc]; rfl⟩

theorem exec_read_completes (hexec : exec i s = moveFromCr w p i.size c rm s) (hc : c ∈ [(0 : BitVec 4), 2, 3, 4, 8])
    (hlock : p.lock = false) (hm : s.mode ≠ .v86) (hcpl : s.cpl = 0) (h4 : c = 4 → s.noCr4 = false) :
    ∃ t, exec i s = .next t ∧ LeavesRead s t i.size w (p.rmNum rm) (s.crRead c) := by
  have hpass := State.crFault_eq_none hlock hm hc hcpl
  exact ⟨_, hexec.trans (moveFromCr_eq_next.2 ⟨hpass, noCr4_passes h4, rfl⟩), leavesRead_regWrite s _ w _ _⟩

end

/-- Settles O33: each row is CrRead at its width, for a number that names a control register. -/
theorem readControl : Obligations.ReadControl := by
  intro s p mod cr rm w i v hrow hlock hm hcpl h4
  have hread : ∃ t, exec i s = .next t ∧ LeavesRead s t i.size w (p.rmNum rm) v := by
    rcases hrow with hrow | ⟨rfl, rfl, rfl⟩
    · obtain ⟨hexec, hc, rfl⟩ := exec_readRow hrow
      exact exec_read_completes hexec hc hlock hm hcpl h4
    · exact exec_read_completes (c := 8) rfl (by decide) hlock hm hcpl nofun
  obtain ⟨t, hnext, ht⟩ := hread
  exact ⟨t, hnext, ht.written, ht.ac, ht.frame, ht.memory⟩

/-! ## Writing -/

/-- The instruction `i` is a write of `v` to the control register `c`, and nothing stops it before the write
(R235 to R238). -/
def WritesControl (s : State) (i : Instr) (c : BitVec 4) (v : Word) : Prop :=
  exec i s = settle s ((s.crWrite c v).map fun t => t.completeUndef i.size)

section
variable {s t : State} {p : Prefixes} {mod : BitVec 2} {cr rm : BitVec 3} {w : Width} {i : Instr} {c : BitVec 4} {v : Word}

theorem moveToCr_of_passes {len : Nat} (hc : c ∈ [(0 : BitVec 4), 2, 3, 4, 8]) (hlock : p.lock = false)
    (hm : s.mode ≠ .v86) (hcpl : s.cpl = 0) (h4 : c = 4 → s.noCr4 = false) :
    moveToCr w p len c rm s =
      settle s ((s.crWrite c (w.trunc (s.reg (p.rmNum rm)))).map fun t => t.completeUndef len) := by
  simp only [moveToCr, State.crFault_eq_none hlock hm hc hcpl, noCr4_passes h4, Bool.false_eq_true, if_false]

/-- Rows 38 and 39 write the low 32 bits of the register, or all of it (R231, R235, R236). -/
theorem writesControl_of_row
    (hrow : (i, v) ∈ [(.movCrR32 p mod cr rm, ((s.reg (p.rmNum rm)).setWidth 32).setWidth 64),
      (.movCrR64 p mod cr rm, s.reg (p.rmNum rm))])
    (hreg : p.regNum cr = c) (hc : c ∈ [(0 : BitVec 4), 2, 3, 4, 8]) (hlock : p.lock = false) (hm : s.mode ≠ .v86)
    (hcpl : s.cpl = 0) (h4 : c = 4 → s.noCr4 = false) : WritesControl s i c v := by
  subst hreg
  simp only [List.mem_cons, List.not_mem_nil, or_false, Prod.mk.injEq] at hrow
  rcases hrow with ⟨rfl, rfl⟩ | ⟨rfl, rfl⟩
  · exact moveToCr_of_passes (w := .b32) hc hlock hm hcpl h4
  · exact moveToCr_of_passes (w := .b64) hc hlock hm hcpl h4

theorem writesControl_cr8 (hlock : p.lock = false) (hm : s.mode ≠ .v86) (hcpl : s.cpl = 0) :
    WritesControl s (.movCr8R64 p mod rm) 8 (s.reg (p.rmNum rm)) :=
  moveToCr_of_passes (w := .b64) (by decide) hlock hm hcpl nofun

theorem WritesControl.completes (h : WritesControl s i c v) (hwrite : s.crWrite c v = .ok t) :
    exec i s = .next (t.completeUndef i.size) := by
  rw [h, hwrite]
  rfl

theorem WritesControl.raises {e : Exception} (h : WritesControl s i c v)
    (hwrite : s.crWrite c v = .error (.exception e)) : exec i s = raises s e := by
  rw [h, hwrite]
  rfl

theorem WritesControl.refused {q : Refusal} (h : WritesControl s i c v)
    (hwrite : s.crWrite c v = .error (.refusal q)) : exec i s = .refused q := by
  rw [h, hwrite]
  rfl

/-! ## The checks of a write -/

/-- The PDPT clause, as the statements have it (R247). -/
theorem State.pdptFault_iff : s.pdptFault c v = true ↔ s.mode = .prot ∧ s.pdptCheck c v = .reservedBitsSet := by
  rw [State.pdptFault, Bool.and_eq_true, decide_eq_true_eq, decide_eq_true_eq]

theorem State.ia32e_iff : s.ia32e = true ↔ s.mode = .compat ∨ s.mode = .long64 := by
  rw [State.ia32e, Bool.or_eq_true, decide_eq_true_eq, decide_eq_true_eq]

theorem cr0Invalid_iff :
    cr0Invalid v = true ↔
      (v.getLsbD 31 = true ∧ v.getLsbD 0 = false) ∨ (v.getLsbD 30 = false ∧ v.getLsbD 29 = true) := by
  simp only [cr0Invalid, cr0PG, cr0PE, cr0CD, cr0NW, Bool.or_eq_true, Bool.and_eq_true, Bool.not_eq_true']

/-- The checks of CrWrite(0, v), bit by bit (R240). -/
theorem State.cr0Fault_iff :
    s.cr0Fault v = true ↔
      (v.getLsbD 31 = true ∧ v.getLsbD 0 = false) ∨ (v.getLsbD 30 = false ∧ v.getLsbD 29 = true)
        ∨ (s.mode = .long64 ∧ s.cr0.getLsbD 31 = true ∧ v.getLsbD 31 = false)
        ∨ (s.mode = .compat ∧ s.cr0.getLsbD 31 = true ∧ v.getLsbD 31 = false ∧ s.cr4.getLsbD 17 = true)
        ∨ (s.mode = .long64 ∧ s.par.cr0HiFault = true ∧ v.extractLsb' 32 32 ≠ 0)
        ∨ (s.mode = .prot ∧ s.pdptCheck 0 v = .reservedBitsSet) := by
  simp only [State.cr0Fault, cr0PG, cr4PCIDE, Bool.or_eq_true, Bool.and_eq_true, Bool.not_eq_true', decide_eq_true_eq,
    cr0Invalid_iff, State.pdptFault_iff, or_assoc, and_assoc]

/-- Two words share a bit exactly when their conjunction is not 0. -/
theorem and_ne_zero_iff {u : Word} : v &&& u ≠ 0 ↔ ∃ k, v.getLsbD k = true ∧ u.getLsbD k = true := by
  rw [← not_iff_not, not_not]
  constructor
  · rintro hzero ⟨k, hv, hu⟩
    have hbit := congrArg (BitVec.getLsbD · k) hzero
    simp [hv, hu] at hbit
  · intro hnone
    refine BitVec.eq_of_getLsbD_eq fun k hk => ?_
    rw [BitVec.getLsbD_and]
    by_contra hbit
    exact hnone ⟨k, by simpa using hbit⟩

/-- Bit 63 of CR3 may be written with a 1 while PCIDE = 1, every other reserved bit never (R244). -/
theorem State.cr3Forbidden_getLsbD (s : State) (k : Nat) :
    s.cr3Forbidden.getLsbD k = true ↔ s.par.cr3Rsvd.getLsbD k = true ∧ ¬ (k = 63 ∧ s.cr4.getLsbD 17 = true) := by
  have hcommand : (0x8000000000000000 : Word) = BitVec.twoPow 64 63 := by decide
  unfold State.cr3Forbidden cr4PCIDE
  by_cases hpcide : s.cr4.getLsbD 17 = true
  · have hlt : s.par.cr3Rsvd.getLsbD k = true → k < 64 := BitVec.lt_of_getLsbD
    simp only [if_pos hpcide, hcommand, BitVec.getLsbD_and, BitVec.getLsbD_not, BitVec.getLsbD_twoPow]
    grind
  · rw [if_neg hpcide]
    exact (and_iff_left fun hcommanded => hpcide hcommanded.2).symm

theorem State.cr3Reserved_iff :
    v &&& s.cr3Forbidden ≠ 0 ↔
      ∃ k, v.getLsbD k = true ∧ s.par.cr3Rsvd.getLsbD k = true ∧ ¬ (k = 63 ∧ s.cr4.getLsbD 17 = true) := by
  simp only [and_ne_zero_iff, State.cr3Forbidden_getLsbD]

/-- Whether CrWrite(3, v) raises #GP(0): one of its two checks fails (R244, R247). -/
def State.cr3Fault (s : State) (v : Word) : Bool :=
  (s.ia32e && decide (v &&& s.cr3Forbidden ≠ 0)) || s.pdptFault 3 v

theorem State.writeCr3_eq :
    s.writeCr3 v =
      if s.cr3Fault v then .error (.exception s.gp0)
      else .ok { s with
        cr3 := v &&& ~~~s.par.cr3Rsvd
        tlb := s.tlb ++ [.cr3Write (cr4PCIDE s.cr4 && v.getLsbD 63)] } := by
  unfold State.writeCr3 State.cr3Fault
  cases s.ia32e && decide (v &&& s.cr3Forbidden ≠ 0) <;> rfl

theorem State.cr3Fault_iff :
    s.cr3Fault v = true ↔
      ((s.mode = .compat ∨ s.mode = .long64)
          ∧ ∃ k, v.getLsbD k = true ∧ s.par.cr3Rsvd.getLsbD k = true ∧ ¬ (k = 63 ∧ s.cr4.getLsbD 17 = true))
        ∨ (s.mode = .prot ∧ s.pdptCheck 3 v = .reservedBitsSet) := by
  rw [State.cr3Fault, Bool.or_eq_true, Bool.and_eq_true, decide_eq_true_eq, State.ia32e_iff, State.cr3Reserved_iff,
    State.pdptFault_iff]

/-- The checks of CrWrite(4, v), bit by bit (R245). -/
theorem State.cr4Fault_iff :
    s.cr4Fault v = true ↔
      v &&& s.par.cr4Rsvd ≠ 0
        ∨ ((s.mode = .real ∨ s.mode = .prot) ∧ v.getLsbD 17 = true)
        ∨ ((s.mode = .compat ∨ s.mode = .long64) ∧ s.cr4.getLsbD 17 = false ∧ v.getLsbD 17 = true
          ∧ s.cr3.extractLsb' 0 12 ≠ 0)
        ∨ ((s.mode = .compat ∨ s.mode = .long64) ∧ s.cr4.getLsbD 5 = true ∧ v.getLsbD 5 = false)
        ∨ (s.mode = .prot ∧ s.pdptCheck 4 v = .reservedBitsSet) := by
  simp only [State.cr4Fault, cr4PCIDE, cr4PAE, Bool.or_eq_true, Bool.and_eq_true, Bool.not_eq_true', decide_eq_true_eq,
    State.ia32e_iff, State.pdptFault_iff, or_assoc, and_assoc]

/-- The full flush is recorded on P4_XEON_P6 when one of two bits changes (R252). -/
theorem State.flushEvents_eq {a b a' b' : Bool} :
    s.flushEvents (decide (a ≠ a') || decide (b ≠ b')) =
      if s.par.procFamily = .p4XeonP6 ∧ (a ≠ a' ∨ b ≠ b') then [.flushAll] else [] := by
  simp only [State.flushEvents, Bool.and_eq_true, Bool.or_eq_true, decide_eq_true_eq]

end

/-! ## The registers -/

/-- Settles O35: every check passes, and PE is as before, so that only a change of PG flushes. -/
theorem writeControl0 : Obligations.WriteControl0 := by
  intro s p mod cr rm i v hrow hreg hlock hm hcpl hpaging hcaching hlong hhigh hpdpt hPE hPG
  have hwrites := writesControl_of_row hrow hreg (by decide) hlock hm hcpl nofun
  have hpass : s.cr0Fault v = false := by
    refine Bool.eq_false_iff.2 fun hfault => ?_
    rcases State.cr0Fault_iff.1 hfault with h | h | ⟨hmode, hold, hnew⟩ | ⟨hmode, hold, hnew, -⟩ | ⟨hmode, hpar, hbits⟩
      | ⟨hmode, hbad⟩
    · exact hpaging h
    · exact hcaching h
    · cases hnew.symm.trans (hlong hmode hold)
    · cases hnew.symm.trans ((hPG hmode).trans hold)
    · exact hbits (hhigh hmode hpar)
    · cases hbad.symm.trans (hpdpt hmode)
  have hkeeps : s.cr0ChangesMode v = false := State.cr0ChangesMode_eq_false.2 ⟨hPE, hPG⟩
  have hflush : s.flushEvents (decide (cr0PE v ≠ cr0PE s.cr0) || decide (cr0PG v ≠ cr0PG s.cr0)) =
      if s.par.procFamily = .p4XeonP6 ∧ v.getLsbD 31 ≠ s.cr0.getLsbD 31 then [.flushAll] else [] := by
    have hsame : ¬ cr0PE v ≠ cr0PE s.cr0 := not_not.2 hPE
    rw [State.flushEvents_eq]
    simp only [hsame, false_or, cr0PG]
  have hstored : s.cr0Stored v =
      (v &&& ~~~s.par.cr0Rsvd) ||| (if s.par.procFamily = .p4XeonP6 then 0x10 else 0) := by
    unfold State.cr0Stored
    split
    · rfl
    · exact BitVec.or_zero.symm
  refine ⟨_, hwrites.completes (State.writeCr0_eq_ok.2 ⟨hpass, hkeeps, rfl⟩), hstored, ?_, rfl, rfl, fun _ => rfl⟩
  rw [← hflush]
  rfl

/-- Settles O36: the check of the mode comes behind the ones that raise #GP(0). -/
theorem writeControl0Stops : Obligations.WriteControl0Stops := by
  intro s p mod cr rm i v hrow hreg hlock hm hcpl
  have hwrites := writesControl_of_row hrow hreg (by decide) hlock hm hcpl nofun
  refine ⟨fun hfault => hwrites.raises (if_pos (State.cr0Fault_iff.2 hfault)), fun hpass hchange => ?_⟩
  have hchanges : s.cr0ChangesMode v = true := by
    refine Bool.eq_true_of_not_eq_false fun hkeeps => ?_
    obtain ⟨hPE, hPG⟩ := State.cr0ChangesMode_eq_false.1 hkeeps
    exact hchange.elim (· hPE) fun ⟨hmode, hne⟩ => hne (hPG hmode)
  exact hwrites.refused ((if_neg (mt State.cr0Fault_iff.1 hpass)).trans (if_pos hchanges))

/-- Settles O37: CrWrite(2, v) answers for every value. -/
theorem writeControl2 : Obligations.WriteControl2 := by
  intro s p mod cr rm i v hrow hreg hlock hm hcpl
  have hwrites := writesControl_of_row hrow hreg (by decide) hlock hm hcpl nofun
  exact ⟨_, hwrites.completes rfl, rfl, rfl, rfl, fun _ => rfl⟩

/-- Settles O38: the two checks of CrWrite(3, v), and what it stores behind them. -/
theorem writeControl3 : Obligations.WriteControl3 := by
  intro s p mod cr rm i v hrow hreg hlock hm hcpl
  have hwrites := writesControl_of_row hrow hreg (by decide) hlock hm hcpl nofun
  refine ⟨fun hfault => hwrites.raises (State.writeCr3_eq.trans (if_pos (State.cr3Fault_iff.2 hfault))), fun hpass => ?_⟩
  have hwrite := State.writeCr3_eq.trans (if_neg (mt State.cr3Fault_iff.1 hpass))
  exact ⟨_, hwrites.completes hwrite, rfl, rfl, rfl, rfl, fun _ => rfl⟩

/-- Settles O39: the checks of CrWrite(4, v), and what it stores behind them. -/
theorem writeControl4 : Obligations.WriteControl4 := by
  intro s p mod cr rm i v hrow hreg hlock hm hcpl hcr4
  have hwrites := writesControl_of_row hrow hreg (by decide) hlock hm hcpl fun _ => hcr4
  refine ⟨fun hfault => hwrites.raises (if_pos (State.cr4Fault_iff.2 hfault)), fun hpass => ?_⟩
  have hwrite : s.crWrite 4 v = .ok _ := if_neg (mt State.cr4Fault_iff.1 hpass)
  refine ⟨_, hwrites.completes hwrite, rfl, ?_, rfl, rfl, fun _ => rfl⟩
  rw [← cr4PSE, ← cr4PSE, ← cr4PAE, ← cr4PAE, ← State.flushEvents_eq]
  rfl

/-- Settles O40: the one check of CrWrite(8, v). -/
theorem writeControl8 : Obligations.WriteControl8 := by
  intro s p mod rm hlock hm hcpl
  have hwrites := writesControl_cr8 (mod := mod) (rm := rm) hlock hm hcpl
  refine ⟨fun hfault => hwrites.raises (if_pos hfault), fun hpass => ?_⟩
  have hwrite : s.crWrite 8 (s.reg (p.rmNum rm)) = .ok _ := if_neg (not_not.2 hpass)
  exact ⟨_, hwrites.completes hwrite, rfl, rfl, rfl, fun _ => rfl⟩

end Sys2Proof.Machine
end

section
/-! PROOF. MOV to and from debug registers (43_mov_debug.md R270 to R282): the common checks, the read and the write. The
read and the write go through the number that DR4 and DR5 stand for while DE = 0 (R276). -/

namespace Sys2Proof.Machine

section
variable {s : State} {p : Prefixes} {mod : BitVec 2} {d dr rm : BitVec 3} {w : Width} {i : Instr} {v : Word}

/-! ## The common checks -/

/-- The number names no debug register: with REX.R, or for DR4 and DR5 while DE = 1 (R276, R277). -/
def State.drUnnamed (s : State) (p : Prefixes) (d : BitVec 3) : Prop :=
  p.rexR = true ∨ ((d = 4 ∨ d = 5) ∧ s.cr4.getLsbD 3 = true ∧ s.noCr4 = false)

theorem State.drUnnamed_iff : s.drUnnamed p d ↔ p.rexR = true ∨ ((d = 4 ∨ d = 5) ∧ s.debugExt = true) := by
  rw [State.drUnnamed, State.debugExt, cr4DE, Bool.and_eq_true, Bool.not_eq_true']

/-- A number that names no debug register raises #UD at every privilege level (R277). -/
theorem State.drFault_of_unnamed (hlock : p.lock = false) (hm : s.mode ≠ .v86) (hd : s.drUnnamed p d) :
    s.drFault p d = some .ud := by
  unfold State.drFault
  rw [hlock, if_neg Bool.false_ne_true, if_neg hm]
  split
  · rfl
  · next hrex => exact if_pos ((State.drUnnamed_iff.1 hd).resolve_left hrex)

/-- For a number that names a debug register the privilege level and general detect remain to be checked (R277, R279). -/
theorem State.drFault_of_named (hlock : p.lock = false) (hm : s.mode ≠ .v86) (hd : ¬ s.drUnnamed p d) :
    s.drFault p d = if s.cpl ≠ 0 then some s.gp0 else if s.dr7.getLsbD 13 = true then some .db else none := by
  obtain ⟨hrex, halias⟩ := not_or.1 (mt State.drUnnamed_iff.2 hd)
  unfold State.drFault
  rw [hlock, if_neg Bool.false_ne_true, if_neg hm, if_neg hrex, if_neg halias, dr7GD]

theorem State.drFault_of_level (hlock : p.lock = false) (hm : s.mode ≠ .v86) (hd : ¬ s.drUnnamed p d)
    (hcpl : s.cpl ≠ 0) : s.drFault p d = some s.gp0 :=
  (State.drFault_of_named hlock hm hd).trans (if_pos hcpl)

theorem State.drFault_of_detect (hlock : p.lock = false) (hm : s.mode ≠ .v86) (hd : ¬ s.drUnnamed p d)
    (hcpl : s.cpl = 0) (hgd : s.dr7.getLsbD 13 = true) : s.drFault p d = some .db :=
  (State.drFault_of_named hlock hm hd).trans ((if_neg (not_not.2 hcpl)).trans (if_pos hgd))

/-- The common checks pass under what the statements on reads and writes assume (R276, R277, R279). -/
theorem State.drFault_eq_none (hlock : p.lock = false) (hm : s.mode ≠ .v86) (hrex : p.rexR = false)
    (halias : d = 4 ∨ d = 5 → s.cr4.getLsbD 3 = false ∨ s.noCr4 = true) (hcpl : s.cpl = 0)
    (hgd : s.dr7.getLsbD 13 = false) : s.drFault p d = none := by
  have hd : ¬ s.drUnnamed p d := by
    rintro (h | ⟨h45, hde, hcr4⟩)
    · cases hrex.symm.trans h
    · rcases halias h45 with h | h
      · cases h.symm.trans hde
      · cases h.symm.trans hcr4
  rw [State.drFault_of_named hlock hm hd, if_neg (not_not.2 hcpl), hgd, if_neg Bool.false_ne_true]

/-- Rows 41 to 44 raise what the common checks report. -/
theorem exec_of_drFault {e : Exception}
    (hi : i ∈ [.movR32Dr p mod dr rm, .movR64Dr p mod dr rm, .movDrR32 p mod dr rm, .movDrR64 p mod dr rm])
    (h : s.drFault p dr = some e) : exec i s = raises s e := by
  simp only [List.mem_cons, List.not_mem_nil, or_false] at hi
  rcases hi with rfl | rfl | rfl | rfl
  · exact moveFromDr_of_drFault h
  · exact moveFromDr_of_drFault h
  · exact moveToDr_of_drFault h
  · exact moveToDr_of_drFault h

/-! ## Reading -/

/-- Rows 41 and 42 differ in their width only (R272, R273). -/
theorem exec_movFromDr (hrow : (w, i) ∈ [(.b32, .movR32Dr p mod dr rm), (.b64, .movR64Dr p mod dr rm)]) :
    exec i s = moveFromDr w p i.size dr rm s := by
  simp only [List.mem_cons, List.not_mem_nil, or_false, Prod.mk.injEq] at hrow
  rcases hrow with ⟨rfl, rfl⟩ | ⟨rfl, rfl⟩
  · rfl
  · rfl

/-- The debug register that each number reads (R49, R276). -/
theorem State.drRead_drIndex
    (hv : (dr, v) ∈ [((0 : BitVec 3), s.dr0), (1, s.dr1), (2, s.dr2), (3, s.dr3), (4, s.dr6), (5, s.dr7), (6, s.dr6),
      (7, s.dr7)]) : s.drRead (drIndex dr) = v := by
  simp only [List.mem_cons, List.not_mem_nil, or_false] at hv
  rcases hv with hv | hv | hv | hv | hv | hv | hv | hv <;> cases hv <;> rfl

/-! ## Writing -/

/-- Rows 43 and 44 write the low 32 bits of the register, or all of it, once the common checks pass (R271, R274, R275). -/
theorem exec_movToDr
    (hrow : (i, v) ∈ [(.movDrR32 p mod dr rm, ((s.reg (p.rmNum rm)).setWidth 32).setWidth 64),
      (.movDrR64 p mod dr rm, s.reg (p.rmNum rm))])
    (hpass : s.drFault p dr = none) :
    exec i s = settle s ((s.drWrite (drIndex dr) v).map fun t => t.completeUndef i.size) := by
  have hwrite : ∀ w len, moveToDr w p len dr rm s =
      settle s ((s.drWrite (drIndex dr) (w.trunc (s.reg (p.rmNum rm)))).map fun t => t.completeUndef len) := by
    intro w len
    rw [moveToDr, hpass]
  simp only [List.mem_cons, List.not_mem_nil, or_false, Prod.mk.injEq] at hrow
  rcases hrow with ⟨rfl, rfl⟩ | ⟨rfl, rfl⟩
  · exact hwrite .b32 _
  · exact hwrite .b64 _

theorem toNat_drIndex (d : BitVec 3) : (drIndex d).toNat = if d = 4 then 6 else if d = 5 then 7 else d.toNat := by
  revert d
  decide

theorem eq_six_or_seven_iff {d : BitVec 3} : d = 6 ∨ d = 7 ↔ 6 ≤ d.toNat := by
  revert d
  decide

/-- A 1 in the high bits of DR6 or DR7 raises #GP(0) (R275, R282). -/
theorem State.drWrite_of_high (h : 6 ≤ d.toNat ∧ v.extractLsb' 32 32 ≠ 0) :
    s.drWrite d v = .error (.exception s.gp0) :=
  if_pos (h.imp_left eq_six_or_seven_iff.2)

theorem State.drWrite_of_not_high (h : ¬ (6 ≤ d.toNat ∧ v.extractLsb' 32 32 ≠ 0)) :
    s.drWrite d v = .ok (s.drStore d v) :=
  State.drWrite_eq_ok.2 ⟨mt (And.imp_left eq_six_or_seven_iff.1) h, rfl⟩

/-- A store changes the debug register of its number, and no other. -/
theorem State.drStore_eq_ite (s : State) (d : BitVec 3) (v : Word) :
    s.drStore d v =
      { s with
        dr0 := if d.toNat = 0 then v else s.dr0
        dr1 := if d.toNat = 1 then v else s.dr1
        dr2 := if d.toNat = 2 then v else s.dr2
        dr3 := if d.toNat = 3 then v else s.dr3
        dr6 := if d.toNat = 6 then v else s.dr6
        dr7 := if d.toNat = 7 then v else s.dr7 } := by
  obtain ⟨n⟩ := d
  fin_cases n <;> rfl

end

/-! ## The rows -/

/-- Settles O41: behind the common checks both rows are one register write of what DrIndex selects. -/
theorem readDebug : Obligations.ReadDebug := by
  intro s p mod dr rm w i v hrow hv hlock hm hrex halias hcpl hgd
  have hpass := State.drFault_eq_none hlock hm hrex halias hcpl hgd
  have hnext := (exec_movFromDr hrow).trans (moveFromDr_eq_next.2 ⟨hpass, rfl⟩)
  rw [State.drRead_drIndex hv] at hnext
  obtain ⟨hwritten, hac, hframe, hmemory⟩ := leavesRead_regWrite s i.size w (p.rmNum rm) v
  exact ⟨_, hnext, hwritten, hac, hframe, hmemory⟩

/-- Settles O42: the one check of a write, and the one register that it stores behind it. -/
theorem writeDebug : Obligations.WriteDebug := by
  intro s p mod dr rm i v target hrow htarget hlock hm hrex halias hcpl hgd
  have hexec := exec_movToDr hrow (State.drFault_eq_none hlock hm hrex halias hcpl hgd)
  obtain rfl : target = (drIndex dr).toNat := htarget.trans (toNat_drIndex dr).symm
  refine ⟨fun hhigh => ?_, fun hlow => ⟨(s.drStore (drIndex dr) v).completeUndef i.size, ?_, ?_, ?_, fun a => ?_⟩⟩
  · rw [hexec, State.drWrite_of_high hhigh]
    rfl
  · rw [hexec, State.drWrite_of_not_high hlow]
    rfl
  · rw [State.completeUndef_ac, State.drStore_flags]
  · rw [State.drStore_eq_ite]
    rfl
  · rw [State.completeUndef_mem, State.drStore_mem]

/-- Settles O43: the checks in their order, each for rows 41 to 44 alike. -/
theorem debugFaults : Obligations.DebugFaults := by
  intro s p mod dr rm i hi hlock hm
  exact ⟨fun hd => exec_of_drFault hi (State.drFault_of_unnamed hlock hm hd),
    fun hd hcpl => exec_of_drFault hi (State.drFault_of_level hlock hm hd hcpl),
    fun hd hcpl hgd => exec_of_drFault hi (State.drFault_of_detect hlock hm hd hcpl hgd)⟩

end Sys2Proof.Machine
end

section
/-! SUPPORT. The one lemma on what stops an instruction that does not complete (60_exceptions.md R300, R302 to R310; 20_memory.md
R83, R89; 42_mov_control.md R248): an exception or a refusal, by the check it comes from. -/

namespace Sys2Proof.Machine

/-! ## Loads of a segment register that stop -/

/-- Why the load of a segment register with a selector goes no further (R210 to R212). -/
inductive SegmentLoadStop (s : State) (r : Sreg) (sel : BitVec 16) : Stop → Prop where
  | nullStack (hr : r = .ss) (hnull : sel.toNat < 4) : SegmentLoadStop s r sel (.exception (.gp (some 0)))
  | protection (hsel : 4 ≤ sel.toNat) : SegmentLoadStop s r sel (gpSel sel)
  | notPresent (d : Desc) (hsel : 4 ≤ sel.toNat) (hd : s.descFetch sel = .desc d) (hp : d.present = false) :
    SegmentLoadStop s r sel (.exception (if r = .ss then .ss (some (selCode sel)) else .np (selCode sel)))

section
variable {s : State} {r : Sreg} {sel : BitVec 16} {d : Desc} {st : Stop}

theorem State.loadSSDesc_stop (hsel : 4 ≤ sel.toNat) (hd : s.descFetch sel = .desc d)
    (h : s.loadSSDesc sel d = .error st) : SegmentLoadStop s .ss sel st := by
  by_cases hok : StackDescOk s sel d
  · rw [State.loadSSDesc_of_ok hok] at h
    split at h
    · next hp =>
      cases h
      exact .notPresent d hsel hd hp
    · cases h
  · rw [State.loadSSDesc_of_not_ok hok] at h
    cases h
    exact .protection hsel

theorem State.loadDataDesc_stop (hr : r ≠ .ss) (hsel : 4 ≤ sel.toNat) (hd : s.descFetch sel = .desc d)
    (h : s.loadDataDesc r sel d = .error st) : SegmentLoadStop s r sel st := by
  unfold State.loadDataDesc at h
  split at h
  · cases h
    exact .protection hsel
  · split at h
    · cases h
      exact .protection hsel
    · split at h
      · next hp =>
        cases h
        simpa only [if_neg hr] using SegmentLoadStop.notPresent (r := r) d hsel hd hp
      · cases h

theorem State.loadSS_stop (h : s.loadSS sel = .error st) : SegmentLoadStop s .ss sel st := by
  by_cases hnull : sel.toNat < 4
  · rw [State.loadSS_of_null hnull] at h
    split at h
    · cases h
    · cases h
      exact .nullStack rfl hnull
  · have hsel := Nat.le_of_not_lt hnull
    cases hd : s.descFetch sel with
    | outsideLimit | nonCanonicalTable =>
      cases (State.loadSS_of_no_desc hsel (by simp [hd])).symm.trans h
      exact .protection hsel
    | desc d => exact State.loadSSDesc_stop hsel hd ((State.loadSS_of_desc hsel hd).symm.trans h)

/-- A NULL selector stops no load of DS, ES, FS or GS (R213). -/
theorem State.loadData_stop (hr : r ≠ .ss) (h : s.loadData r sel = .error st) : SegmentLoadStop s r sel st := by
  by_cases hnull : sel.toNat < 4
  · cases (State.loadData_of_null hnull).symm.trans h
  · have hsel := Nat.le_of_not_lt hnull
    cases hd : s.descFetch sel with
    | outsideLimit | nonCanonicalTable =>
      cases (State.loadData_of_no_desc hsel (by simp [hd])).symm.trans h
      exact .protection hsel
    | desc d => exact State.loadDataDesc_stop hr hsel hd ((State.loadData_of_desc hsel hd).symm.trans h)

/-- Nothing stops a load in REAL and V86 (R216). -/
theorem State.loadSeg_stop (h : s.loadSeg r sel = .error st) :
    (s.mode = .prot ∨ s.mode = .compat ∨ s.mode = .long64) ∧ SegmentLoadStop s r sel st := by
  by_cases hreal : s.mode = .real ∨ s.mode = .v86
  · cases (State.loadSeg_of_real hreal).symm.trans h
  · have hm : s.mode = .prot ∨ s.mode = .compat ∨ s.mode = .long64 := by
      cases hmode : s.mode <;> simp [hmode] at hreal ⊢
    refine ⟨hm, ?_⟩
    by_cases hr : r = .ss
    · subst hr
      exact State.loadSS_stop ((State.loadSeg_of_ss hm).symm.trans h)
    · exact State.loadData_stop hr ((State.loadSeg_of_data hm hr).symm.trans h)

end

/-! ## Data accesses that stop their instruction -/

section
variable {s : State} {p : Prefixes} {len n : Nat} {w : Width} {rm : Rm} {r : Sreg} {off : Word} {v : Word} {st : Stop}

theorem State.loadOp_stop (h : s.loadOp r off n = .error st) :
    DataAccess.Stops s { seg := r, off := off, n := n, acc := .read } st := by
  unfold State.loadOp at h
  split at h
  · cases h
    exact .check ‹_›
  · cases h

theorem State.storeOp_stop (h : s.storeOp r off n v = .error st) :
    DataAccess.Stops s { seg := r, off := off, n := n, acc := .write } st := by
  unfold State.storeOp at h
  split at h
  · cases h
    exact .check ‹_›
  · split at h
    · cases h
      exact .text rfl ‹_› ‹_›
    · cases h

/-- The data access `d`, where there is one, stops its instruction. -/
def StoppedBy (s : State) (d : Option DataAccess) (st : Stop) : Prop := ∃ a, d = some a ∧ a.Stops s st

theorem State.readRm_stop (h : s.readRm p len w rm = .error st) :
    StoppedBy s (s.rmAccess p len w.bytes .read rm) st := by
  cases rm with
  | reg q => cases h
  | mem m => exact ⟨_, rfl, State.loadOp_stop h⟩

theorem State.writeRm_stop (h : s.writeRm p len w rm v = .error st) :
    StoppedBy s (s.rmAccess p len w.bytes .write rm) st := by
  cases rm with
  | reg q => cases h
  | mem m => exact ⟨_, rfl, State.storeOp_stop h⟩

theorem State.writeSelector_stop {sel : BitVec 16} (h : s.writeSelector p len rm sel = .error st) :
    StoppedBy s (s.rmAccess p len 2 .write rm) st := by
  cases rm with
  | reg q =>
    obtain ⟨_, _, hwrite, -⟩ := s.writeSelector_reg p len q sel
    cases hwrite.symm.trans h
  | mem m => exact State.writeRm_stop (w := .b16) h

/-- What refuses a data access: an address that does not exist (R83), or a code segment that is not readable (R68, N10). -/
theorem State.access_refusal {acc : Access} {q : Refusal} (h : s.access r off n acc = .error (.refusal q)) :
    q = .unreadableCodeRead ∨ ∃ a, q = .unmapped a := by
  unfold State.access at h
  split at h
  · cases h
  · split at h
    · cases h
      exact .inl rfl
    · split at h
      · cases h
      · split at h
        · cases h
          exact .inr ⟨_, rfl⟩
        · cases h

end

/-! ## What stops an instruction -/

/-- Whether an instruction is a MOV to or from a debug register (R272 to R275). -/
def isDebugMove : Instr → Bool
  | .movR32Dr _ _ _ _ | .movR64Dr _ _ _ _ | .movDrR32 _ _ _ _ | .movDrR64 _ _ _ _ => true
  | _ => false

/-- What an instruction that does not complete from `s` stops at. -/
inductive StopReason (i : Instr) (s : State) : Stop → Prop where
  | undefined : StopReason i s (.exception .ud)
  /-- The one data access, or the text under it. -/
  | access {st : Stop} (h : StoppedBy s (s.dataAccess i) st) : StopReason i s st
  /-- A load of a segment register, never CS (R220), with the selector that is read. -/
  | segmentLoad {st : Stop} (p : Prefixes) (g : BitVec 3) (rm : Rm) (r : Sreg) (sel : BitVec 16)
      (hi : i = .movSregRm16 p g rm ∨ i = .movSregRm64 p g rm) (hg : sregOf g = some r)
      (hsource : selectorSource s p i.size rm sel) (h : s.loadSeg r sel = .error st) : StopReason i s st
  /-- A check of MOV-CR or MOV-DR that reports #GP(0). -/
  | protection (hi : i.isMove = false) : StopReason i s (.exception s.gp0)
  /-- General detect (R279, R309). -/
  | detect (hi : i.isMove = false) (hd : isDebugMove i = true) (hgd : s.dr7.getLsbD 13 = true) :
    StopReason i s (.exception .db)
  /-- A change of the mode (R248), or a processor without CR4 (U9). -/
  | refusal {q : Refusal} (hi : i.isMove = false) (hq : q = .modeChange ∨ q = .noCr4) : StopReason i s (.refusal q)

section
variable {i : Instr} {s : State} {p : Prefixes} {len : Nat} {w : Width} {e : Exception} {st : Stop}

/-! ### MOV-Move -/

theorem settle_stop {r : Except Stop State} (h : settle s r = settle s (.error st)) : r = .error st := by
  cases st with
  | exception e =>
    obtain ⟨e', hr, he⟩ := settle_eq_fault h
    cases he
    exact hr
  | refusal q => exact settle_eq_refused h

theorem raise_stop (h : raise e s = settle s (.error st)) : st = .exception e :=
  (Except.error.inj (settle_stop (r := .error (.exception e)) h)).symm

theorem moveStep_stopReason {r : Except Stop State} (hr : r = .error st → StoppedBy s (s.dataAccess i) st)
    (h : moveStep p len s r = settle s (.error st)) : StopReason i s st := by
  unfold moveStep at h
  split at h
  · cases raise_stop h
    exact .undefined
  · exact .access (hr (except_map_eq_error (settle_stop h)))

/-- An immediate to a register meets no check but that of LOCK (R163). -/
theorem moveImmToReg_stopReason {r : BitVec 3} {imm : Word}
    (h : moveImmToReg w p len r imm s = settle s (.error st)) : StopReason i s st :=
  moveStep_stopReason (fun hr => by cases hr) h

theorem moveFromSreg_stopReason {g : BitVec 3} {rm : Rm} (ha : s.dataAccess i = s.rmAccess p len 2 .write rm)
    (h : moveFromSreg p len g rm s = settle s (.error st)) : StopReason i s st := by
  unfold moveFromSreg at h
  split at h
  · cases raise_stop h
    exact .undefined
  · exact moveStep_stopReason (fun hr => ha ▸ State.writeSelector_stop hr) h

theorem moveToSreg_stopReason {g : BitVec 3} {rm : Rm} (hi : i = .movSregRm16 p g rm ∨ i = .movSregRm64 p g rm)
    (ha : s.dataAccess i = s.rmAccess p i.size 2 .read rm)
    (h : moveToSreg p i.size g rm s = settle s (.error st)) : StopReason i s st := by
  rcases moveToSreg_cases s p i.size g rm with hud | ⟨st', m, rfl, hcheck, hstop⟩ | ⟨r, sel, hg, -, hsource, hload⟩
  · cases raise_stop (hud.symm.trans h)
    exact .undefined
  · cases settle_stop (hstop.symm.trans h)
    exact .access ⟨_, ha, .check hcheck⟩
  · exact .segmentLoad p g rm r sel hi hg hsource (except_map_eq_error (settle_stop (hload.symm.trans h)))

/-! ### MOV-CR -/

section
variable {c : BitVec 4} {rm : BitVec 3} {v : Word}

theorem State.crFault_stopReason (hi : i.isMove = false) (h : s.crFault p c = some e) :
    StopReason i s (.exception e) := by
  have hcases : e = .ud ∨ e = s.gp0 := by
    have hlock := s.lockFault_cases
    unfold State.crFault at h
    grind
  rcases hcases with rfl | rfl
  · exact .undefined
  · exact .protection hi

/-- A write of a control register stops at #GP(0) or a change of the mode; the number was checked before (R238). -/
theorem State.crWrite_stopReason (hi : i.isMove = false) (h : s.crWrite c v = .error st) : StopReason i s st := by
  unfold State.crWrite at h
  split at h
  case h_1 =>
    unfold State.writeCr0 at h
    split at h
    · cases h
      exact .protection hi
    · split at h
      · cases h
        exact .refusal hi (.inl rfl)
      · cases h
  case h_2 => cases h
  case h_3 =>
    rw [State.writeCr3_eq] at h
    split at h
    · cases h
      exact .protection hi
    · cases h
  case h_4 =>
    unfold State.writeCr4 at h
    split at h
    · cases h
      exact .protection hi
    · cases h
  case h_5 =>
    unfold State.writeCr8 at h
    split at h
    · cases h
      exact .protection hi
    · cases h
  case h_6 =>
    cases h
    exact .undefined

theorem moveFromCr_stopReason (hi : i.isMove = false) (h : moveFromCr w p len c rm s = settle s (.error st)) :
    StopReason i s st := by
  unfold moveFromCr at h
  split at h
  · next hfault =>
    cases raise_stop h
    exact State.crFault_stopReason hi hfault
  · split at h
    · cases settle_stop (r := .error (.refusal .noCr4)) h
      exact .refusal hi (.inr rfl)
    · cases settle_stop (r := .ok _) h

theorem moveToCr_stopReason (hi : i.isMove = false) (h : moveToCr w p len c rm s = settle s (.error st)) :
    StopReason i s st := by
  unfold moveToCr at h
  split at h
  · next hfault =>
    cases raise_stop h
    exact State.crFault_stopReason hi hfault
  · split at h
    · cases settle_stop (r := .error (.refusal .noCr4)) h
      exact .refusal hi (.inr rfl)
    · exact State.crWrite_stopReason hi (except_map_eq_error (settle_stop h))

end

/-! ### MOV-DR -/

section
variable {d rm : BitVec 3}

theorem State.drFault_stopReason (hi : i.isMove = false) (hd : isDebugMove i = true) (h : s.drFault p d = some e) :
    StopReason i s (.exception e) := by
  have hcases : e = .ud ∨ e = s.gp0 ∨ (e = .db ∧ dr7GD s.dr7 = true) := by
    have hlock := s.lockFault_cases
    unfold State.drFault at h
    grind
  rcases hcases with rfl | rfl | ⟨rfl, hgd⟩
  · exact .undefined
  · exact .protection hi
  · exact .detect hi hd hgd

theorem moveFromDr_stopReason (hi : i.isMove = false) (hd : isDebugMove i = true)
    (h : moveFromDr w p len d rm s = settle s (.error st)) : StopReason i s st := by
  unfold moveFromDr at h
  split at h
  · next hfault =>
    cases raise_stop h
    exact State.drFault_stopReason hi hd hfault
  · cases settle_stop (r := .ok _) h

theorem moveToDr_stopReason (hi : i.isMove = false) (hd : isDebugMove i = true)
    (h : moveToDr w p len d rm s = settle s (.error st)) : StopReason i s st := by
  unfold moveToDr at h
  split at h
  · next hfault =>
    cases raise_stop h
    exact State.drFault_stopReason hi hd hfault
  · have hwrite := except_map_eq_error (settle_stop h)
    unfold State.drWrite at hwrite
    split at hwrite
    · cases hwrite
      exact .protection hi
    · cases hwrite

end

/-- Every instruction that stops, by the shared operation its row calls. -/
theorem exec_stopReason (h : exec i s = settle s (.error st)) : StopReason i s st := by
  cases i with
  | movRm8R8 | movRm8R8Rex | movRm16R16 | movRm32R32 | movRm64R64
  | movRm8Imm8 | movRm8Imm8Rex | movRm16Imm16 | movRm32Imm32 | movRm64Imm32 =>
    exact moveStep_stopReason State.writeRm_stop h
  | movR8Rm8 | movR8Rm8Rex | movR16Rm16 | movR32Rm32 | movR64Rm64 =>
    exact moveStep_stopReason (fun hr => State.readRm_stop (except_map_eq_error hr)) h
  | movAlMoffs8 | movAlMoffs8RexW | movAxMoffs16 | movEaxMoffs32 | movRaxMoffs64 =>
    exact moveStep_stopReason (fun hr => ⟨_, rfl, State.loadOp_stop (except_map_eq_error hr)⟩) h
  | movMoffs8Al | movMoffs8AlRexW | movMoffs16Ax | movMoffs32Eax | movMoffs64Rax =>
    exact moveStep_stopReason (fun hr => ⟨_, rfl, State.storeOp_stop hr⟩) h
  | movR8Imm8 | movR8Imm8Rex | movR16Imm16 | movR32Imm32 | movR64Imm64 => exact moveImmToReg_stopReason h
  | movRm16Sreg | movRm64Sreg => exact moveFromSreg_stopReason rfl h
  | movSregRm16 => exact moveToSreg_stopReason (.inl rfl) rfl h
  | movSregRm64 => exact moveToSreg_stopReason (.inr rfl) rfl h
  | movR32Cr | movR64Cr | movR64Cr8 => exact moveFromCr_stopReason rfl h
  | movCrR32 | movCrR64 | movCr8R64 => exact moveToCr_stopReason rfl h
  | movR32Dr | movR64Dr => exact moveFromDr_stopReason rfl rfl h
  | movDrR32 | movDrR64 => exact moveToDr_stopReason rfl rfl h

end

end Sys2Proof.Machine
end

section
/-! PROOF. Exceptions and boundaries (60_exceptions.md R302 to R311, R318, R323, R324; 70_reset_and_hazards.md R345): what an
instruction can raise or refuse, from what stops it, and what comes before an instruction in a step. -/

namespace Sys2Proof.Machine

/-! ## Which forms raise which exceptions -/

/-- An exception of the one data access of an instruction (R310). -/
def RaisedByAccess (s : State) (i : Instr) (e : Exception) : Prop :=
  s.dataAccess i ≠ none
    ∧ (e = .gp s.zeroCode ∨ e = .ss s.zeroCode ∨ (s.mode ≠ .real ∧ (e = .ac ∨ ∃ code, e = .pf code)))

/-- An exception of a load of the segment register numbered `g` with a selector (R210, R212, R215). -/
def RaisedByLoad (s : State) (g : BitVec 3) (sel : BitVec 16) (e : Exception) : Prop :=
  (g = 2 ∧ sel.toNat < 4 ∧ e = .gp (some 0))
    ∨ (4 ≤ sel.toNat ∧ e = .gp (some (sel &&& 0xFFFC)))
    ∨ (4 ≤ sel.toNat ∧ (∃ d, s.descFetch sel = .desc d ∧ d.present = false)
      ∧ e = if g = 2 then .ss (some (sel &&& 0xFFFC)) else .np (sel &&& 0xFFFC))

section
variable {i : Instr} {s : State} {e : Exception}

/-- The moves to and from control and debug registers access no data (R80). -/
theorem State.dataAccess_of_not_isMove (hi : i.isMove = false) : s.dataAccess i = none := by
  cases i with
  | movR32Cr | movR64Cr | movR64Cr8 | movCrR32 | movCrR64 | movCr8R64 | movR32Dr | movR64Dr | movDrR32 | movDrR64 => rfl
  | _ => cases hi

theorem StoppedBy.raisedByAccess (h : StoppedBy s (s.dataAccess i) (.exception e)) : RaisedByAccess s i e := by
  obtain ⟨d, hd, hstop⟩ := h
  cases hstop with
  | check hcheck => exact ⟨by simp [hd], access_exception s _ _ _ _ e hcheck⟩

theorem sregOf_eq_ss_iff {g : BitVec 3} {r : Sreg} (hg : sregOf g = some r) : r = .ss ↔ g = 2 := by
  refine ⟨fun hr => sregOf_eq_ss (hr ▸ hg), fun h2 => ?_⟩
  subst h2
  exact (Option.some.inj hg).symm

theorem SegmentLoadStop.raisedByLoad {g : BitVec 3} {r : Sreg} {sel : BitVec 16} (hg : sregOf g = some r)
    (h : SegmentLoadStop s r sel (.exception e)) : RaisedByLoad s g sel e := by
  cases h with
  | nullStack hr hnull => exact .inl ⟨(sregOf_eq_ss_iff hg).1 hr, hnull, rfl⟩
  | protection hsel => exact .inr (.inl ⟨hsel, rfl⟩)
  | notPresent d hsel hd hp =>
    refine .inr (.inr ⟨hsel, ⟨d, hd, hp⟩, ?_⟩)
    simp only [sregOf_eq_ss_iff hg, selCode]

/-- A MOV-Move instruction raises #UD, or an exception of its data access or of the load that it is (R310). -/
theorem StopReason.of_isMove (hi : i.isMove = true) (h : StopReason i s (.exception e)) :
    e = .ud ∨ RaisedByAccess s i e
      ∨ ∃ p g rm, (i = .movSregRm16 p g rm ∨ i = .movSregRm64 p g rm)
        ∧ (s.mode = .prot ∨ s.mode = .compat ∨ s.mode = .long64)
        ∧ ∃ sel, selectorSource s p i.size rm sel ∧ RaisedByLoad s g sel e := by
  cases h with
  | undefined => exact .inl rfl
  | access hstop => exact .inr (.inl hstop.raisedByAccess)
  | segmentLoad p g rm r sel hrow hg hsource hload =>
    obtain ⟨hm, hstop⟩ := State.loadSeg_stop hload
    exact .inr (.inr ⟨p, g, rm, hrow, hm, sel, hsource, hstop.raisedByLoad hg⟩)
  | protection hno => cases hi.symm.trans hno
  | detect hno => cases hi.symm.trans hno

/-- A MOV to or from a control or debug register raises #UD or #GP(0), and #DB only if it is one of a debug register (R309,
R310). -/
theorem StopReason.of_not_isMove (hi : i.isMove = false) (h : StopReason i s (.exception e)) :
    e = .ud ∨ e = .gp s.zeroCode ∨ (e = .db ∧ isDebugMove i = true ∧ s.dr7.getLsbD 13 = true) := by
  cases h with
  | undefined => exact .inl rfl
  | access hstop =>
    obtain ⟨d, hd, -⟩ := hstop
    cases (State.dataAccess_of_not_isMove hi).symm.trans hd
  | segmentLoad p g rm r sel hrow => rcases hrow with rfl | rfl <;> cases hi
  | protection => exact .inr (.inl rfl)
  | detect _ hd hgd => exact .inr (.inr ⟨rfl, hd, hgd⟩)

/-- In REAL there is no #PF, #AC or #NP, and no exception has an error code (R301, R308). -/
theorem StopReason.of_real (hm : s.mode = .real) (h : StopReason i s (.exception e)) :
    e = .ud ∨ e = .gp none ∨ e = .ss none ∨ e = .db := by
  have hcode := State.zeroCode_of_real hm
  cases hi : i.isMove with
  | false =>
    rcases h.of_not_isMove hi with he | he | ⟨he, -⟩
    · exact .inl he
    · exact .inr (.inl (hcode ▸ he))
    · exact .inr (.inr (.inr he))
  | true =>
    rcases h.of_isMove hi with he | ⟨-, he | he | ⟨hno, -⟩⟩ | ⟨p, g, rm, -, hload, -⟩
    · exact .inl he
    · exact .inr (.inl (hcode ▸ he))
    · exact .inr (.inr (.inl (hcode ▸ he)))
    · exact absurd hm hno
    · simp [hm] at hload

/-- An exception of an instruction is what stops it (R300, R311). -/
theorem exec_raises {u : State} (h : exec i s = .fault (.exception e u)) : StopReason i s (.exception e) := by
  obtain ⟨e', he⟩ := exec_isPrecise h
  cases he
  exact exec_stopReason h

end

/-- Settles O47: each clause is one reading of what stops the instruction. -/
theorem exceptionsByForm : Obligations.ExceptionsByForm := by
  intro s u i e h
  have hstop := exec_raises h
  have hplain : i.isMove = true → (¬ ∃ p g rm, i = .movSregRm16 p g rm ∨ i = .movSregRm64 p g rm) →
      e = .ud ∨ RaisedByAccess s i e := fun hi hno => by
    rcases hstop.of_isMove hi with he | he | ⟨p, g, rm, hrow, -⟩
    · exact .inl he
    · exact .inr he
    · exact absurd ⟨p, g, rm, hrow⟩ hno
  refine ⟨fun hi hno hnone => ?noAccess, hplain, fun p g rm hrow => ?load, fun p mod cr rm hrow => ?control,
    fun hi => ?system, fun hm => hstop.of_real hm⟩
  case noAccess => exact (hplain hi hno).resolve_right fun ha => ha.1 hnone
  case load =>
    have hi : i.isMove = true := by rcases hrow with rfl | rfl <;> rfl
    rcases hstop.of_isMove hi with he | he | ⟨p', g', rm', hrow', hload⟩
    · exact .inl he
    · exact .inr (.inl he)
    · obtain ⟨rfl, rfl, rfl⟩ : p' = p ∧ g' = g ∧ rm' = rm := by
        rcases hrow with rfl | rfl <;> rcases hrow' with h | h <;> cases h <;> exact ⟨rfl, rfl, rfl⟩
      exact .inr (.inr hload)
  case control =>
    have hi : i.isMove = false ∧ isDebugMove i = false := by
      simp only [List.mem_cons, List.not_mem_nil, or_false] at hrow
      rcases hrow with rfl | rfl | rfl | rfl | rfl | rfl <;> exact ⟨rfl, rfl⟩
    rcases hstop.of_not_isMove hi.1 with he | he | ⟨-, hdebug, -⟩
    · exact .inl he
    · exact .inr he
    · cases hi.2.symm.trans hdebug
  case system =>
    exact (hstop.of_not_isMove hi).imp_right (Or.imp_right fun ⟨he, _, hgd⟩ => ⟨he, hgd⟩)

/-- Settles O46: every fault of an instruction is raised in the state it started in. -/
theorem exceptionsArePrecise : Obligations.ExceptionsArePrecise := fun _ _ _ => exec_isPrecise

/-! ## Interrupts and the end of a run -/

section
variable {s : State}

theorem State.interruptTaken_iff : s.interruptTaken = true ↔ s.offers.head? = some true ∧ s.intShadow = false := by
  unfold State.interruptTaken State.offered
  rw [Bool.and_eq_true, Bool.not_eq_true']
  cases s.offers with
  | nil => simp
  | cons b rest => simp

theorem State.atEnd_iff : s.atEnd = true ↔ (s.pcWrap (s.pc - s.text.start)).toNat = s.text.bytes.length :=
  decide_eq_true_iff

/-- No instruction answers as the end of a run does (R345): what refuses it is its data access, a change of the mode or a
missing CR4. -/
theorem exec_ne_endOfText {i : Instr} : exec i s ≠ .refused .endOfText := by
  intro h
  cases exec_stopReason (st := .refusal .endOfText) h with
  | access hstop =>
    obtain ⟨d, -, hd⟩ := hstop
    cases hd with
    | check hcheck => rcases State.access_refusal hcheck with hq | ⟨a, hq⟩ <;> cases hq
  | segmentLoad p g rm r sel _ _ _ hload => cases (State.loadSeg_stop hload).2
  | refusal _ hq => rcases hq with hq | hq <;> cases hq

/-- Taking an interrupt is no fault of an instruction (R318). -/
theorem exec_ne_interrupted {i : Instr} {u : State} : exec i s ≠ .fault (.interrupted u) := by
  intro h
  obtain ⟨e, he⟩ := exec_isPrecise h
  cases he

theorem step_of_atEnd (hend : s.atEnd = true) : step s = .refused .endOfText := if_pos hend

theorem step_of_interruptTaken (hend : s.atEnd = false) (hint : s.interruptTaken = true) :
    step s = .fault (.interrupted s) := by
  rw [step, if_neg (by simp [hend]), if_pos hint]

/-- Where no boundary event comes first, a step refuses what it cannot fetch or decode, or is an instruction's meaning
(R300). -/
theorem step_of_no_event (hend : s.atEnd = false) (hint : s.interruptTaken = false) :
    step s = .refused .pcOutsideText ∨ (∃ r, step s = .refused (.undecoded r)) ∨ ∃ i, step s = exec i s.begin := by
  cases hfetch : s.fetch with
  | none => exact .inl (by simp only [step, hend, hint, hfetch, Bool.false_eq_true, if_false])
  | some bytes =>
    cases hdecode : decode s.ctx bytes with
    | error r =>
      exact .inr (.inl ⟨r, by simp only [step, hend, hint, hfetch, hdecode, Bool.false_eq_true, if_false]⟩)
    | ok read => exact .inr (.inr ⟨read.1, step_of_decode hend hint hfetch hdecode⟩)

end

/-- Settles O50: neither event is an answer of fetch, decoding or an instruction. -/
theorem boundaries : Obligations.Boundaries := by
  intro s
  rw [← State.interruptTaken_iff, ← State.atEnd_iff]
  refine ⟨fun hend => ⟨fun h => ?_, step_of_interruptTaken hend⟩, fun h => ?_, step_of_atEnd⟩
  · by_contra hno
    rcases step_of_no_event hend (Bool.eq_false_iff.2 hno) with hs | ⟨r, hs⟩ | ⟨i, hs⟩
    · cases hs.symm.trans h
    · cases hs.symm.trans h
    · exact exec_ne_interrupted (hs.symm.trans h)
  · by_contra hno
    have hend := Bool.eq_false_iff.2 hno
    cases hint : s.interruptTaken with
    | true => cases (step_of_interruptTaken hend hint).symm.trans h
    | false =>
      rcases step_of_no_event hend hint with hs | ⟨r, hs⟩ | ⟨i, hs⟩
      · cases hs.symm.trans h
      · cases hs.symm.trans h
      · exact exec_ne_endOfText (hs.symm.trans h)

/-! ## Privilege level 0 -/

section
variable {s t : State} {p : Prefixes}

/-- The common checks of MOV-CR pass at privilege level 0 only (R238). -/
theorem State.cpl_of_crFault_eq_none {c : BitVec 4} (h : s.crFault p c = none) : s.cpl = 0 := by
  unfold State.crFault at h
  grind

/-- The common checks of MOV-DR pass at privilege level 0 only (R277). -/
theorem State.cpl_of_drFault_eq_none {d : BitVec 3} (h : s.drFault p d = none) : s.cpl = 0 := by
  unfold State.drFault at h
  grind

/-- A move to or from a control or debug register completes at privilege level 0 only (R323, R324). -/
theorem cpl_of_exec_not_isMove {i : Instr} (hi : i.isMove = false) (h : exec i s = .next t) : s.cpl = 0 := by
  cases i with
  | movR32Cr | movR64Cr | movR64Cr8 => exact State.cpl_of_crFault_eq_none (moveFromCr_eq_next.1 h).1
  | movCrR32 | movCrR64 | movCr8R64 => exact State.cpl_of_crFault_eq_none (moveToCr_eq_next.1 h).1
  | movR32Dr | movR64Dr => exact State.cpl_of_drFault_eq_none (moveFromDr_eq_next.1 h).1
  | movDrR32 | movDrR64 => exact State.cpl_of_drFault_eq_none (moveToDr_eq_next.1 h).1
  | _ => cases hi

end

/-- Settles O57: at another level the instruction that completes is a MOV-Move, which has none of these in its frame. -/
theorem onlyLevel0 : Obligations.OnlyLevel0 := by
  intro s t hcpl h
  obtain ⟨-, -, bytes, i, rest, -, -, hexec⟩ := step_eq_next h
  have hi : i.isMove = true := by
    by_contra hno
    exact hcpl (cpl_of_exec_not_isMove (s := s.begin) (Bool.eq_false_iff.2 hno) hexec)
  obtain ⟨hframe, -⟩ := moveFrame s.begin t i hi hexec
  rw [hframe]
  exact ⟨rfl, rfl, rfl, rfl, rfl, rfl, rfl, rfl, rfl, rfl, rfl, rfl, rfl⟩

end Sys2Proof.Machine
end
